-- ==== Sys2Proof/Word.lean ====
section
/-! DEFINITION. The two word sizes of the block: bytes (rule R9) and 64-bit request words (rule R60). -/

namespace Sys2Proof

/-- A framebuffer, bus or response byte (00 R9, 10 R26). -/
abbrev Byte := BitVec 8

/-- A request word (30 R60). -/
abbrev Word := BitVec 64

end Sys2Proof
end

