-- ==== Sys2Proof/Syntax.lean ====
section
/-! DEFINITION. The fourteen requests of the opcode map (30 R71), each with its operand fields. -/

namespace Sys2Proof

/-- A decoded request, in the order of spec/opcode_table.json. Coordinates are the raw 16-bit fields of 30 R65. -/
inductive Instr where
  | init
  | pclr   (x y : BitVec 16)
  | pset   (x y : BitVec 16)
  | pinv   (x y : BitVec 16)
  | fill   (color : BitVec 16)
  | clear
  | flush
  | fclear
  | cmd    (byte : Byte)
  | cmdl   (bytes : List Byte)
  | rawrd  (index : BitVec 16)
  | rawwr  (index : BitVec 16) (value : Byte)
  | width
  | height
deriving DecidableEq, Repr

/-- The three pixel modes of `setPixel` (30 R64, R77). -/
inductive PixelMode where
  | off
  | on
  | inverse
deriving DecidableEq, Repr

/-- The pseudo-instruction `setpixel x, y, mode`, which expands to exactly one request (30 R77). -/
def PixelMode.setPixel (m : PixelMode) (x y : BitVec 16) : Instr :=
  match m with
  | .off => .pclr x y
  | .on => .pset x y
  | .inverse => .pinv x y

end Sys2Proof
end

