-- ==== Sys2Proof/WellFormed.lean ====
section
/-! DEFINITION. Which terms of `Instr` have an encoding: every one, but for the length of CMDL's list (30 R68). -/

namespace Sys2Proof

/-- CMDL carries 1 to 255 bytes (30 R68); every value of every other operand field is legal (30 R65 to R70). -/
def Instr.wellFormed (i : Instr) : Bool :=
  match i with
  | .init => true
  | .pclr _ _ => true
  | .pset _ _ => true
  | .pinv _ _ => true
  | .fill _ => true
  | .clear => true
  | .flush => true
  | .fclear => true
  | .cmd _ => true
  | .cmdl bytes => decide (1 ≤ bytes.length) && decide (bytes.length ≤ 255)
  | .rawrd _ => true
  | .rawwr _ _ => true
  | .width => true
  | .height => true

end Sys2Proof
end

