-- ==== Sys2Proof/Decode.lean ====
section
/-! DEFINITION. Request decoding, total and rejecting by name (30 R60 to R75), and the encoder written from the
same formats (30 R62 to R70, R76). -/

namespace Sys2Proof

/-! ### Decoding -/

/-- Why a request word is illegal (30 R72, R73, R75). -/
inductive Illegal where
  /-- `OP` is 0x00 or 0x0D..0xFF (30 R72). -/
  | reservedOpcode
  /-- A bit of the format's reserved range is 1 (30 R73(a)). -/
  | reservedBits
  /-- Format P with `MODE = 0b11` (30 R73(b)). -/
  | reservedMode
  /-- Format L with `N = 0` (30 R73(c)). -/
  | zeroCount
  /-- Format L with a non-zero reserved byte in its last payload word (30 R73(d)). -/
  | sparePayload
deriving DecidableEq, Repr

/-- What the words on the request port begin with. -/
inductive Decoded where
  /-- A legal request, and the words after it. -/
  | instr (i : Instr) (rest : List Word)
  /-- An illegal request with its header word, and the words after it. -/
  | illegal (why : Illegal) (header : Word) (rest : List Word)
  /-- No request, or a CMDL header whose payload words are not all there yet (log entry 2). -/
  | incomplete
deriving DecidableEq, Repr

/-- `w[lo+len-1 : lo]` (00 R9). -/
def field (w : Word) (lo len : Nat) : BitVec len := w.extractLsb' lo len

/-- `OP = w[63:56]` (30 R60). -/
def opField (w : Word) : Byte := field w 56 8

/-- The payload words of a CMDL of `n` bytes: `ceil(n/8)` (30 R61). -/
def payloadWords (n : Nat) : Nat := (n + 7) / 8

/-- The words of a request, told from `OP` and, for CMDL, `N` (30 R61). -/
def requestLength (w : Word) : Nat :=
  if opField w = 0x08 then 1 + payloadWords (field w 0 8).toNat else 1

/-- Byte `k` of a CMDL payload: `p_{k div 8}[8*(k mod 8)+7 : 8*(k mod 8)]` (20 R47, 30 R68). -/
def payloadByte (ps : List Word) (k : Nat) : Byte := field (ps.getD (k / 8) 0) (8 * (k % 8)) 8

/-- The verdict of a format whose reserved bits are `w[lo+len-1 : lo]` (30 R73(a)). -/
def unlessReserved (w : Word) (lo len : Nat) (legal : Except Illegal Instr) : Except Illegal Instr :=
  if field w lo len = 0 then legal else .error .reservedBits

/-- Format P's mode (30 R64). -/
def decodePixel (mode : Nat) (x y : BitVec 16) : Except Illegal Instr :=
  match mode with
  | 0 => .ok (.pclr x y)
  | 1 => .ok (.pset x y)
  | 2 => .ok (.pinv x y)
  | _ => .error .reservedMode

/-- The one-word requests by opcode (30 R62 to R67, R69 to R72), in the decode order of 30 R75. -/
def decodeSingle (w : Word) : Except Illegal Instr :=
  match (opField w).toNat with
  | 0x01 => unlessReserved w 0 56 (.ok .init)
  | 0x02 => unlessReserved w 34 22 (decodePixel (field w 32 2).toNat (field w 0 16) (field w 16 16))
  | 0x03 => unlessReserved w 16 40 (.ok (.fill (field w 0 16)))
  | 0x04 => unlessReserved w 0 56 (.ok .clear)
  | 0x05 => unlessReserved w 0 56 (.ok .flush)
  | 0x06 => unlessReserved w 0 56 (.ok .fclear)
  | 0x07 => unlessReserved w 8 48 (.ok (.cmd (field w 0 8)))
  | 0x09 => unlessReserved w 16 40 (.ok (.rawrd (field w 0 16)))
  | 0x0A => unlessReserved w 24 32 (.ok (.rawwr (field w 0 16) (field w 16 8)))
  | 0x0B => unlessReserved w 0 56 (.ok .width)
  | 0x0C => unlessReserved w 0 56 (.ok .height)
  | _ => .error .reservedOpcode

/-- The spare bytes of the last payload word, positions `n` up to the word's end, are zero (30 R68). -/
def spareZero (n : Nat) (ps : List Word) : Bool :=
  (List.range (8 * payloadWords n - n)).all fun k => payloadByte ps (n + k) = 0

/-- Format L: the header's checks, then the payload's (30 R68, R75). -/
def decodeList (w : Word) (ws : List Word) : Decoded :=
  let n := (field w 0 8).toNat
  if field w 8 48 ≠ 0 then .illegal .reservedBits w ((w :: ws).drop (requestLength w))
  else if n = 0 then .illegal .zeroCount w ((w :: ws).drop (requestLength w))
  else if ws.length < payloadWords n then .incomplete
  else if spareZero n ws then .instr (.cmdl ((List.range n).map (payloadByte ws))) (ws.drop (payloadWords n))
  else .illegal .sparePayload w ((w :: ws).drop (requestLength w))

/-- What the presented words begin with: total on every word list (30 R75). -/
def decode (words : List Word) : Decoded :=
  match words with
  | [] => .incomplete
  | w :: ws =>
    if opField w = 0x08 then decodeList w ws
    else match decodeSingle w with
      | .ok i => .instr i ws
      | .error why => .illegal why w ws

/-! ### Encoding -/

/-- The header word of a request (30 R76). -/
def header (i : Instr) : Word :=
  match i with
  | .init => 0x01#64 <<< 56
  | .pclr x y => 0x02#64 <<< 56 ||| 0b00#64 <<< 32 ||| y.setWidth 64 <<< 16 ||| x.setWidth 64
  | .pset x y => 0x02#64 <<< 56 ||| 0b01#64 <<< 32 ||| y.setWidth 64 <<< 16 ||| x.setWidth 64
  | .pinv x y => 0x02#64 <<< 56 ||| 0b10#64 <<< 32 ||| y.setWidth 64 <<< 16 ||| x.setWidth 64
  | .fill color => 0x03#64 <<< 56 ||| color.setWidth 64
  | .clear => 0x04#64 <<< 56
  | .flush => 0x05#64 <<< 56
  | .fclear => 0x06#64 <<< 56
  | .cmd byte => 0x07#64 <<< 56 ||| byte.setWidth 64
  | .cmdl bytes => 0x08#64 <<< 56 ||| (BitVec.ofNat 8 bytes.length).setWidth 64
  | .rawrd index => 0x09#64 <<< 56 ||| index.setWidth 64
  | .rawwr index value => 0x0A#64 <<< 56 ||| value.setWidth 64 <<< 16 ||| index.setWidth 64
  | .width => 0x0B#64 <<< 56
  | .height => 0x0C#64 <<< 56

/-- Byte `k` of a list, zero past its end, at its place `8*(k mod 8)` of a payload word (30 R68). -/
def placeByte (bytes : List Byte) (j b : Nat) : Word := (bytes.getD (8 * j + b) 0).setWidth 64 <<< (8 * b)

/-- Payload word `j` of a byte list (30 R68). -/
def packWord (bytes : List Byte) (j : Nat) : Word :=
  placeByte bytes j 0 ||| placeByte bytes j 1 ||| placeByte bytes j 2 ||| placeByte bytes j 3 |||
  placeByte bytes j 4 ||| placeByte bytes j 5 ||| placeByte bytes j 6 ||| placeByte bytes j 7

/-- The payload words of a request: none, but for CMDL (30 R61, R68). -/
def payload (i : Instr) : List Word :=
  match i with
  | .cmdl bytes => (List.range (payloadWords bytes.length)).map (packWord bytes)
  | .init | .pclr _ _ | .pset _ _ | .pinv _ _ | .fill _ | .clear | .flush | .fclear | .cmd _
  | .rawrd _ | .rawwr _ _ | .width | .height => []

/-- The words of a request, header first. -/
def encode (i : Instr) : List Word := header i :: payload i

/-! ### The opcode table -/

/-- A row of spec/opcode_table.json: a header is the row's exactly when `w &&& mask = pattern`
(and, for CMDL, `N ≠ 0` and the spare payload bytes are zero). -/
structure TableRow where
  mnemonic : String
  pattern : Word
  mask : Word
deriving DecidableEq, Repr

/-- spec/opcode_table.json, letter for letter. -/
def opcodeTable : List TableRow :=
  [ ⟨"INIT",   0x0100000000000000, 0xFFFFFFFFFFFFFFFF⟩,
    ⟨"PCLR",   0x0200000000000000, 0xFFFFFFFF00000000⟩,
    ⟨"PSET",   0x0200000100000000, 0xFFFFFFFF00000000⟩,
    ⟨"PINV",   0x0200000200000000, 0xFFFFFFFF00000000⟩,
    ⟨"FILL",   0x0300000000000000, 0xFFFFFFFFFFFF0000⟩,
    ⟨"CLEAR",  0x0400000000000000, 0xFFFFFFFFFFFFFFFF⟩,
    ⟨"FLUSH",  0x0500000000000000, 0xFFFFFFFFFFFFFFFF⟩ ] ++
  [ ⟨"FCLEAR", 0x0600000000000000, 0xFFFFFFFFFFFFFFFF⟩,
    ⟨"CMD",    0x0700000000000000, 0xFFFFFFFFFFFFFF00⟩,
    ⟨"CMDL",   0x0800000000000000, 0xFFFFFFFFFFFFFF00⟩,
    ⟨"RAWRD",  0x0900000000000000, 0xFFFFFFFFFFFF0000⟩,
    ⟨"RAWWR",  0x0A00000000000000, 0xFFFFFFFFFF000000⟩,
    ⟨"WIDTH",  0x0B00000000000000, 0xFFFFFFFFFFFFFFFF⟩,
    ⟨"HEIGHT", 0x0C00000000000000, 0xFFFFFFFFFFFFFFFF⟩ ]

/-- The mnemonic of a request in spec/opcode_table.json (30 R71). -/
def mnemonic (i : Instr) : String :=
  match i with
  | .init => "INIT"
  | .pclr _ _ => "PCLR"
  | .pset _ _ => "PSET"
  | .pinv _ _ => "PINV"
  | .fill _ => "FILL"
  | .clear => "CLEAR"
  | .flush => "FLUSH"
  | .fclear => "FCLEAR"
  | .cmd _ => "CMD"
  | .cmdl _ => "CMDL"
  | .rawrd _ => "RAWRD"
  | .rawwr _ _ => "RAWWR"
  | .width => "WIDTH"
  | .height => "HEIGHT"

/-- The `OP` number of a request (30 R71). -/
def opcode (i : Instr) : Byte :=
  match i with
  | .init => 0x01
  | .pclr _ _ => 0x02
  | .pset _ _ => 0x02
  | .pinv _ _ => 0x02
  | .fill _ => 0x03
  | .clear => 0x04
  | .flush => 0x05
  | .fclear => 0x06
  | .cmd _ => 0x07
  | .cmdl _ => 0x08
  | .rawrd _ => 0x09
  | .rawwr _ _ => 0x0A
  | .width => 0x0B
  | .height => 0x0C

/-! ### The host's view of one encoded request -/

/-- The words of a request whose bits are `w` (bit 0 the least significant bit of the first word), `nbits` of them given
and every later bit zero, up to the longest request's 33 words (30 R61). -/
def tableWords (nbits w : Nat) : List Word :=
  (List.range 33).map fun k => BitVec.ofNat 64 ((w % 2 ^ nbits) / 2 ^ (64 * k))

/-- The request the decoder reads from those bits, if it is legal. -/
def decodeTableWord (nbits w : Nat) : Option Instr :=
  match decode (tableWords nbits w) with
  | .instr i _ => some i
  | .illegal _ _ _ => none
  | .incomplete => none

end Sys2Proof
end

