-- ==== Sys2Proof/Config.lean ====
section
/-! DEFINITION. What an implementation fixes: the geometry and addresses of 00 R2 to R5, the open frame
parameters of 00 R8, and the free values of 10 R21 and R29. -/

namespace Sys2Proof.Config

/-- `W`, the columns of the display (00 R2). -/
abbrev width : Nat := 106

/-- `H`, the rows of the display (00 R2). -/
abbrev height : Nat := 65

/-- `FB_BYTES`, the framebuffer bytes: `W` columns of nine bands (00 R3). -/
abbrev fbBytes : Nat := 954

/-- `NLINES`, the display controller's address lines (00 R5). -/
abbrev lines : Nat := 9

/-- `BUS_ADDR` (00 R4). -/
def busAddr : Byte := 0x3C

/-- `LINE_BASE + L`, the address of controller line `L` (00 R5). -/
def lineAddr (l : Nat) : Byte := BitVec.ofNat 8 (0x40 + l)

/-- The WIDTH request's answer, 106 as a signed 8-bit value (10 R31, 40 R112). -/
def widthByte : Byte := 0x6A

/-- The HEIGHT request's answer, 65 as a signed 8-bit value (10 R31, 40 R113). -/
def heightByte : Byte := 0x41

/-- A command frame: a non-empty byte list, non-empty by construction (00 R8, glossary "Frame"). -/
structure Frame where
  head : Byte
  tail : List Byte
deriving DecidableEq, Repr, Inhabited

/-- The bytes of a frame in sending order. -/
def Frame.bytes (f : Frame) : List Byte := f.head :: f.tail

/-- The open parameters of 00 R8. `cmdPrefix` is informative only there: the frames already include it. -/
structure Params where
  initFrames  : List Frame
  setAddress  : Byte → Frame
  colStart    : Frame
  writeEnable : Frame
  cmdPrefix   : Byte × Byte
deriving Inhabited

/-- What 00 R8 says informatively of the prefix: every frame begins with it. No definition rests on this. -/
def Params.FramesBeginWithPrefix (p : Params) : Prop :=
  ∀ f, (f ∈ p.initFrames ∨ (∃ a, f = p.setAddress a) ∨ f = p.colStart ∨ f = p.writeEnable) →
    f.bytes.take 2 = [p.cmdPrefix.1, p.cmdPrefix.2]

/-- The nine line addresses select nine different set-address frames. -/
def Params.LinesDistinct (p : Params) : Prop :=
  ∀ k l, k < lines → l < lines → p.setAddress (lineAddr k) = p.setAddress (lineAddr l) → k = l

/-- This instance's parameters: fixed, and open (00 R8; log entry 6). -/
opaque params : Params

/-- The byte that reset number `r` leaves at framebuffer index `i`: unspecified (10 R21, 70 R230; log entry 4). -/
opaque fbDraw : Nat → Nat → Byte

/-- The `allocOk` draw number `n`: a free input (10 R29; log entry 5). -/
opaque allocOk : Nat → Bool

end Sys2Proof.Config
end

