-- ==== Sys2Proof/Machine/State.lean ====
section
/-! DEFINITION. The state of the block (10 R21 to R25), its ports held as plain data (10 R27 to R29), its stops, and
reset (70 R230). -/

namespace Sys2Proof.Machine

/-- One bus transaction `Txn(a, bs)`: a bus address and the bytes written, in order (10 R26). -/
structure Txn where
  addr  : Byte
  bytes : List Byte
deriving DecidableEq, Repr

/-- Framebuffer contents: (index, byte) pairs, indices strictly rising. A listed byte has been written since reset; an
unlisted one reads as a free value (10 R21; log entry 4). -/
abbrev Memory := List Host.Cell

/-- Everything the spec gives the block, then the model's own input and output lists. -/
structure State where
  /-- `FB`, indices 0..953 (10 R21). -/
  fb        : Memory
  /-- `ALLOC` (10 R22). -/
  alloc     : Bool
  /-- `FAULTED` (10 R23). -/
  faulted   : Bool
  /-- `CAUSE`, four bits (10 R23, 60 R200). -/
  cause     : BitVec 4
  /-- `FAULT_REQ`, the faulting request's header word (10 R23). -/
  faultReq  : Word
  /-- `TXQ`, head first (10 R24). -/
  txq       : List Txn
  /-- `TRACE`, oldest first (10 R25). -/
  trace     : List Txn
  /-- The request port: the words HOST presents and CTRL has not accepted, oldest first (10 R27; log entry 2). -/
  port      : List Word
  /-- The response port: one entry for each request completed without fault (10 R28; log entry 9). -/
  responses : List (Option Byte)
  /-- The `allocOk` draws the environment has already fixed, next first (10 R29; log entry 5). -/
  allocIn   : List Bool
  /-- How many `allocOk` draws have been made (log entry 5). -/
  draws     : Nat
  /-- The reset line's samples for the coming steps, next first; exhausted means not asserted (70 R230; log entry 3). -/
  resetIn   : List Bool
  /-- How many reset events have happened, so that each leaves fresh unspecified bytes (70 R230; log entry 4). -/
  resets    : Nat
deriving DecidableEq, Repr

/-- Why a step stops. -/
inductive Fault where
  /-- Raised by `stoppedStep`: `FAULTED = 1`, `TXQ` is empty and the reset line has no sample left, so no step of the
  block is enabled ever again (60 R202: the block is stuck). Safe: the block does nothing in that state. -/
  | stopped
deriving DecidableEq, Repr

/-- Why the model gives a step no meaning. -/
inductive Refusal where
  /-- Raised by an arm of `exec` whose request has no meaning yet; no arm is. Safe. -/
  | notModelled (mnemonic : String)
deriving DecidableEq, Repr

/-- The outcome of a step of this machine. -/
abbrev Result := Host.Outcome State Fault Refusal

/-- The faults of 60 R200. -/
inductive Cause where
  | illegalRequest
  | notInitialized
  | rawIndexRange
deriving DecidableEq, Repr

/-- The block right after reset, with nothing presented to it (70 R230, R231; the ports' values are log entry 10). -/
def State.reset : State where
  fb := []
  alloc := false
  faulted := false
  cause := 0
  faultReq := 0
  txq := []
  trace := []
  port := []
  responses := []
  allocIn := []
  draws := 0
  resetIn := []
  resets := 0

end Sys2Proof.Machine
end

