-- ==== Sys2Proof/Machine/Flags.lean ====
section
/-! DEFINITION. The status fields: fault codes (60 R200) and the STATUS view (10 R30). -/

namespace Sys2Proof.Machine

/-- The code a fault records in `CAUSE` (60 R200). -/
def Cause.code (c : Cause) : BitVec 4 :=
  match c with
  | .illegalRequest => 1
  | .notInitialized => 2
  | .rawIndexRange => 3

/-- BUSY: `TXQ` is non-empty (10 R24, R30). -/
def State.busy (s : State) : Bool := !s.txq.isEmpty

/-- `STATUS`: bit 0 ALLOC, bit 1 BUSY, bit 2 FAULTED, bit 3 zero, bits 7:4 CAUSE (10 R30). -/
def State.status (s : State) : Byte :=
  s.cause.setWidth 8 <<< 4 ||| (BitVec.ofBool s.faulted).setWidth 8 <<< 2 |||
  (BitVec.ofBool s.busy).setWidth 8 <<< 1 ||| (BitVec.ofBool s.alloc).setWidth 8

end Sys2Proof.Machine
end

