-- ==== Sys2Proof/Machine/Operands.lean ====
section
/-! DEFINITION. Operand forms: coordinates and the pixel bit-position mux (30 R65, 40 R100 to R103), the row remap
(41 R143 to R145). -/

namespace Sys2Proof.Machine

/-- A coordinate field read as a signed integer: `sext_64` (30 R65). -/
def coord (v : BitVec 16) : Int := (v.signExtend 64).toInt

/-- The bounds check of every pixel request (40 R100). -/
def inBounds (x y : Int) : Bool :=
  decide (0 ≤ x) && decide (x < Config.width) && decide (0 ≤ y) && decide (y < Config.height)

/-- Band select (40 R101). -/
def band (y : Nat) : Nat := y / 8

/-- Bit position of a row in its byte (40 R102). -/
def pos (y : Nat) : Nat := 7 - y % 8

/-- One-hot mask of a row: `0x80 >> (y & 7)` (40 R102). -/
def mask (y : Nat) : Byte := 0x80#8 >>> (y % 8)

/-- Byte index of a pixel (40 R103). -/
def pixelIndex (x y : Nat) : Nat := x + band y * Config.width

/-- `FILL`'s byte: only zero against non-zero matters (40 R108). -/
def fillByte (color : BitVec 16) : Byte := if color ≠ 0 then 0xFF else 0x00

/-- Top-line byte of a band-0 byte (41 R143). -/
def topByte (b : Byte) : Byte := b &&& 0x80

/-- Shift and splice: the current band's low seven bits up by one, the next band's top bit in (41 R144). -/
def remapByte (cur nxt : Byte) : Byte := ((cur &&& 0x7F) <<< 1) ||| ((nxt &&& 0x80) >>> 7)

/-- `topLine(FB)`, for framebuffer contents read as `fb` (41 R145). -/
def topLine (fb : Nat → Byte) : List Byte := (List.range Config.width).map fun x => topByte (fb x)

/-- `remapLine(FB, l)` (41 R145). -/
def remapLine (fb : Nat → Byte) (l : Nat) : List Byte :=
  (List.range Config.width).map fun x => remapByte (fb (x + l * Config.width)) (fb (x + (l + 1) * Config.width))

/-- `pixel(FB, x, y)`, the value of a pixel (20 R43). -/
def pixel (fb : Nat → Byte) (x y : Nat) : Bool := (fb (x + y / 8 * Config.width)).getLsbD (7 - y % 8)

end Sys2Proof.Machine
end

