-- ==== Sys2Proof/Machine/Ops.lean ====
section
/-! DEFINITION. The named operations over framebuffer, queue, ports and fault record: every meaning is written over
these (00 R11), and the fault (60 R201) and reset (70 R230) are each one operation here. -/

namespace Sys2Proof.Machine

/-! ### Framebuffer contents as a list -/

/-- The canonical form: indices strictly rising, all of them framebuffer indices (log entry 4). -/
def Memory.wf (m : Memory) : Bool :=
  decide (m.Pairwise fun c d => c.1 < d.1) && m.all fun c => decide (c.1 < Config.fbBytes)

/-- The byte written at `i` since reset, if any was. -/
def Memory.read (m : Memory) (i : Nat) : Option Byte :=
  match m with
  | [] => none
  | (a, b) :: rest => if a = i then some b else Memory.read rest i

/-- Write one byte, keeping the list sorted (00 R11 `MemWrite`). -/
def Memory.write (m : Memory) (i : Nat) (v : Byte) : Memory :=
  match m with
  | [] => [(i, v)]
  | (a, b) :: rest =>
    if i < a then (i, v) :: (a, b) :: rest
    else if i = a then (i, v) :: rest
    else (a, b) :: Memory.write rest i v

/-- Every framebuffer byte holding `v` (40 R107). -/
def Memory.fill (v : Byte) : Memory := (List.range' 0 Config.fbBytes).map fun i => (i, v)

/-! ### Operations on the state -/

/-- `FB[i]` (00 R11 `MemRead`): the byte written there since reset, else the unspecified byte reset left (10 R21). -/
def State.fbByte (s : State) (i : Nat) : Byte := (Memory.read s.fb i).getD (Config.fbDraw s.resets i)

/-- `FB[i] <- v`. -/
def State.fbWrite (s : State) (i : Nat) (v : Byte) : State := { s with fb := Memory.write s.fb i v }

/-- `for i in 0..953: FB[i] <- v` (40 R107). -/
def State.fbFill (s : State) (v : Byte) : State := { s with fb := Memory.fill v }

/-- `Emit` of each transaction in order: append to `TXQ` (00 R11, 10 R24). -/
def State.emit (s : State) (ts : List Txn) : State := { s with txq := s.txq ++ ts }

/-- The request completes without fault and returns `r` (10 R28). -/
def State.respond (s : State) (r : Option Byte) : State := { s with responses := s.responses ++ [r] }

/-- The accepted request's words taken off the request port, `rest` left (10 R27). -/
def State.setPort (s : State) (rest : List Word) : State := { s with port := rest }

/-- A successful allocation (10 R22). -/
def State.setAlloc (s : State) : State := { s with alloc := true }

/-- The `allocOk` draw the next INIT with `ALLOC = 0` sees: the environment's if it has fixed one, else free (10 R29). -/
def State.allocDraw (s : State) : Bool :=
  match s.allocIn with
  | ok :: _ => ok
  | [] => Config.allocOk s.draws

/-- The draw is used up. -/
def State.takeDraw (s : State) : State := { s with allocIn := s.allocIn.tail, draws := s.draws + 1 }

/-- `raise Fault(c)` for the request with header `w` (60 R201): the block's whole exception entry. -/
def State.raiseFault (s : State) (c : Cause) (w : Word) : State :=
  { s with faulted := true, cause := c.code, faultReq := w }

/-- The reset event (70 R230), the only return from a fault (60 R207). `FB` is unspecified again; what HOST and the
environment still present is theirs and stays (log entries 2, 3, 5, 9). -/
def State.resetEvent (s : State) : State :=
  { s with
    fb := [], alloc := false, faulted := false, cause := 0, faultReq := 0, txq := [], trace := [],
    responses := [], resets := s.resets + 1 }

/-- EMIT of the queue's head `t`, leaving `rest` (41 R153). -/
def State.emitHead (s : State) (t : Txn) (rest : List Txn) : State :=
  { s with txq := rest, trace := s.trace ++ [t] }

/-- Every queued transaction emitted, in order: the atomic view's tail (41 R154). -/
def State.drain (s : State) : State := { s with txq := [], trace := s.trace ++ s.txq }

/-! ### The common checks -/

/-- Check (2) of 60 R203: a request other than INIT faults while `ALLOC = 0`. -/
def whenAllocated (i : Instr) (s : State) (body : Result) : Result :=
  if s.alloc then body else .next (s.raiseFault .notInitialized (header i))

/-- Check (3) of 60 R203: RAWRD and RAWWR fault past the framebuffer. -/
def whenInRange (i : Instr) (index : BitVec 16) (s : State) (body : Result) : Result :=
  if index.toNat < Config.fbBytes then body else .next (s.raiseFault .rawIndexRange (header i))

/-! ### Transaction building blocks (41 R140 to R142) -/

/-- `command(bs)`'s transaction (41 R140). -/
def commandTxn (bs : List Byte) : Txn := ⟨Config.busAddr, bs⟩

/-- `DATA(bs)` (41 R142). -/
def dataTxn (bs : List Byte) : Txn := ⟨Config.busAddr, bs⟩

/-- `ASEL(a)`: set address, set column-start mode, set write-enable (41 R141). -/
def asel (p : Config.Params) (a : Byte) : List Txn :=
  [commandTxn (p.setAddress a).bytes, commandTxn p.colStart.bytes, commandTxn p.writeEnable.bytes]

/-- One line written: its address-select sequence, then its data. -/
def lineWrite (p : Config.Params) (l : Nat) (bs : List Byte) : List Txn := asel p (Config.lineAddr l) ++ [dataTxn bs]

/-- FLUSH's transactions: line 8 with the top rows, then lines 0..7 with the row remap (41 R146). -/
def flushTxns (p : Config.Params) (fb : Nat → Byte) : List Txn :=
  lineWrite p 8 (topLine fb) ++ (List.range 8).flatMap fun l => lineWrite p l (remapLine fb l)

/-- FCLEAR's transactions: lines 0..8 in order, all zero (41 R147). -/
def fclearTxns (p : Config.Params) : List Txn :=
  (List.range Config.lines).flatMap fun l => lineWrite p l (List.replicate Config.width 0)

/-- INIT's transactions: one for each configuration frame (41 R148). -/
def initTxns (p : Config.Params) : List Txn := p.initFrames.map fun f => commandTxn f.bytes

end Sys2Proof.Machine
end

