-- ==== Sys2Proof/Machine/Bulk.lean ====
section
/-! DEFINITION. The bulk requests FILL and CLEAR (40 R107 to R109). -/

namespace Sys2Proof.Machine

/-- FILL: every byte 0xFF for a non-zero colour, else 0x00 (40 R108). -/
def execFill (color : BitVec 16) (s : State) : Result :=
  whenAllocated (.fill color) s (.next ((s.fbFill (fillByte color)).respond none))

/-- CLEAR: every byte 0x00 (40 R109). -/
def execClear (s : State) : Result := whenAllocated .clear s (.next ((s.fbFill 0x00).respond none))

end Sys2Proof.Machine
end

