-- ==== Sys2Proof/Machine/Dimensions.lean ====
section
/-! DEFINITION. The dimension requests WIDTH and HEIGHT (40 R112, R113). -/

namespace Sys2Proof.Machine

/-- WIDTH: respond 106 (40 R112). -/
def execWidth (s : State) : Result := whenAllocated .width s (.next (s.respond (some Config.widthByte)))

/-- HEIGHT: respond 65 (40 R113). -/
def execHeight (s : State) : Result := whenAllocated .height s (.next (s.respond (some Config.heightByte)))

end Sys2Proof.Machine
end

