-- ==== Sys2Proof/Machine/Pixel.lean ====
section
/-! DEFINITION. The pixel requests PSET, PCLR, PINV (40 R104 to R106). -/

namespace Sys2Proof.Machine

/-- The shape the three share: in bounds, combine the pixel's byte with its mask; out of bounds, nothing (40 R100). -/
def State.updatePixel (s : State) (x y : BitVec 16) (f : Byte → Byte → Byte) : State :=
  if inBounds (coord x) (coord y) then
    s.fbWrite (pixelIndex x.toNat y.toNat) (f (s.fbByte (pixelIndex x.toNat y.toNat)) (mask y.toNat))
  else s

/-- PCLR: the pixel off (40 R105). -/
def execPclr (x y : BitVec 16) (s : State) : Result :=
  whenAllocated (.pclr x y) s (.next ((s.updatePixel x y fun b m => b &&& ~~~m).respond none))

/-- PSET: the pixel on (40 R104). -/
def execPset (x y : BitVec 16) (s : State) : Result :=
  whenAllocated (.pset x y) s (.next ((s.updatePixel x y fun b m => b ||| m).respond none))

/-- PINV: the pixel toggled (40 R106). -/
def execPinv (x y : BitVec 16) (s : State) : Result :=
  whenAllocated (.pinv x y) s (.next ((s.updatePixel x y fun b m => b ^^^ m).respond none))

end Sys2Proof.Machine
end

