-- ==== Sys2Proof/Machine/Raw.lean ====
section
/-! DEFINITION. The raw storage requests RAWRD and RAWWR (40 R110, R111). -/

namespace Sys2Proof.Machine

/-- RAWRD: respond one storage byte (40 R110). -/
def execRawrd (index : BitVec 16) (s : State) : Result :=
  whenAllocated (.rawrd index) s
    (whenInRange (.rawrd index) index s (.next (s.respond (some (s.fbByte index.toNat)))))

/-- RAWWR: write one storage byte (40 R111). -/
def execRawwr (index : BitVec 16) (value : Byte) (s : State) : Result :=
  whenAllocated (.rawwr index value) s
    (whenInRange (.rawwr index value) index s (.next ((s.fbWrite index.toNat value).respond none)))

end Sys2Proof.Machine
end

