-- ==== Sys2Proof/Machine/Transport.lean ====
section
/-! DEFINITION. The display transport requests INIT, FLUSH, FCLEAR, CMD, CMDL (41 R146 to R150). -/

namespace Sys2Proof.Machine

/-- INIT past its allocation test: zero the framebuffer, queue the configuration frames, respond 0x01 (41 R148). -/
def State.configure (s : State) : State := ((s.fbFill 0x00).emit (initTxns Config.params)).respond (some 0x01)

/-- Where INIT leaves the block: no draw while allocated, else as the draw says (41 R148). -/
def State.initialized (s : State) : State :=
  if s.alloc then s.configure
  else if s.allocDraw then s.takeDraw.setAlloc.configure
  else s.takeDraw.respond (some 0x00)

/-- INIT, the one request allowed while `ALLOC = 0` (41 R148). -/
def execInit (s : State) : Result := .next s.initialized

/-- FLUSH: queue the whole framebuffer with the row remap (41 R146). -/
def execFlush (s : State) : Result :=
  whenAllocated .flush s (.next ((s.emit (flushTxns Config.params s.fbByte)).respond none))

/-- FCLEAR: queue nine lines of zeros (41 R147). -/
def execFclear (s : State) : Result :=
  whenAllocated .fclear s (.next ((s.emit (fclearTxns Config.params)).respond none))

/-- CMD: one byte, one transaction, nothing added (41 R149). -/
def execCmd (byte : Byte) (s : State) : Result :=
  whenAllocated (.cmd byte) s (.next ((s.emit [commandTxn [byte]]).respond none))

/-- CMDL: the whole byte list in one transaction, nothing added (41 R150). -/
def execCmdl (bytes : List Byte) (s : State) : Result :=
  whenAllocated (.cmdl bytes) s (.next ((s.emit [commandTxn bytes]).respond none))

end Sys2Proof.Machine
end

