-- ==== Sys2Proof/Machine/Dispatch.lean ====
section
/-! DEFINITION. One arm for each request (30 R71), each a direct call of its meaning. -/

namespace Sys2Proof.Machine

/-- The meaning of a decoded request: its ISSUE step after decoding (10 R27, 60 R203). -/
def exec (i : Instr) (s : State) : Host.Outcome State Fault Refusal :=
  match i with
  | .init => Sys2Proof.Machine.execInit s
  | .pclr x y => Sys2Proof.Machine.execPclr x y s
  | .pset x y => Sys2Proof.Machine.execPset x y s
  | .pinv x y => Sys2Proof.Machine.execPinv x y s
  | .fill color => Sys2Proof.Machine.execFill color s
  | .clear => Sys2Proof.Machine.execClear s
  | .flush => Sys2Proof.Machine.execFlush s
  | .fclear => Sys2Proof.Machine.execFclear s
  | .cmd byte => Sys2Proof.Machine.execCmd byte s
  | .cmdl bytes => Sys2Proof.Machine.execCmdl bytes s
  | .rawrd index => Sys2Proof.Machine.execRawrd index s
  | .rawwr index value => Sys2Proof.Machine.execRawwr index value s
  | .width => Sys2Proof.Machine.execWidth s
  | .height => Sys2Proof.Machine.execHeight s

end Sys2Proof.Machine
end

