-- ==== Sys2Proof/Machine/Issue.lean ====
section
/-! DEFINITION. The block's two steps, ISSUE (10 R27) and EMIT (41 R153), and which is enabled. -/

namespace Sys2Proof.Machine

/-- ISSUE: accept the request at the head of the port and complete it in one step (10 R27); an illegal one faults
before anything else is checked (60 R203(1)). With no whole request presented the block waits (70 R231; log entry 8). -/
def issueStep (s : State) : Result :=
  match decode s.port with
  | .instr i rest => exec i (s.setPort rest)
  | .illegal _ w rest => .next ((s.setPort rest).raiseFault .illegalRequest w)
  | .incomplete => .next s

/-- A faulted block accepts nothing (60 R202): it stands still while a reset may still come, else it is stuck. -/
def stoppedStep (s : State) : Result := if s.resetIn.isEmpty then .fault .stopped else .next s

/-- The block's own step: EMIT exactly when `TXQ` is non-empty (41 R153), else ISSUE exactly when `FAULTED = 0`. -/
def blockStep (s : State) : Result :=
  match s.txq with
  | t :: rest => .next (s.emitHead t rest)
  | [] => if s.faulted then stoppedStep s else issueStep s

/-- One sample of the reset line, then the reset event or the block's own step (70 R230, R232; log entry 3). -/
def sampledStep (s : State) : Result :=
  match s.resetIn with
  | [] => blockStep s
  | true :: rest => .next { s with resetIn := rest }.resetEvent
  | false :: rest => blockStep { s with resetIn := rest }

end Sys2Proof.Machine
end

