-- ==== Sys2Proof/Machine/Step.lean ====
section
/-! DEFINITION. One step of the machine, and the host's way of placing one request where the next step accepts it. -/

namespace Sys2Proof.Machine

/-- One step: a reset event, an EMIT, an ISSUE, or a wait. -/
def step (s : State) : Host.Outcome State Fault Refusal := sampledStep s

/-- The request whose bits are `w` presented ahead of everything on the port, and acceptance enabled for the very next
step: no reset sample, `TXQ` empty, no fault recorded (10 R27; log entry 11). -/
def State.withFetchWord (s : State) (nbits w : Nat) : State :=
  { s with
    port := (tableWords nbits w).take (requestLength ((tableWords nbits w).headD 0)) ++ s.port
    txq := [], faulted := false, cause := 0, faultReq := 0, resetIn := [] }

end Sys2Proof.Machine
end

