-- ==== Sys2Proof/Machine/Assembler.lean ====
section
/-! DEFINITION. The assembler syntax and pseudo-instructions (30 R76, R77), over lines of characters. What the two rules
leave open of blanks and empty lines is log entry 17. -/

namespace Sys2Proof.Machine

/-- A blank between tokens. -/
def isBlank (c : Char) : Bool := c = ' ' || c = '\t'

/-- Blanks at both ends removed. -/
def trimBlanks (cs : List Char) : List Char := ((cs.dropWhile isBlank).reverse.dropWhile isBlank).reverse

/-- An ASCII capital in lower case; mnemonics are case-insensitive (30 R76). -/
def lowerChar (c : Char) : Char := if 'A' ≤ c ∧ c ≤ 'Z' then Char.ofNat (c.toNat + 32) else c

/-- The value of a digit in base 10 or 16. -/
def digitValue (base : Nat) (c : Char) : Option Nat :=
  let v := if '0' ≤ c ∧ c ≤ '9' then c.toNat - 48
    else if 'a' ≤ lowerChar c ∧ lowerChar c ≤ 'f' then (lowerChar c).toNat - 87 else base
  if v < base then some v else none

/-- One or more digits as a number, most significant first. -/
def digitsValue (base : Nat) (cs : List Char) : Option Nat :=
  if cs.isEmpty then none
  else cs.foldl (fun acc c => acc.bind fun a => (digitValue base c).map fun d => a * base + d) (some 0)

/-- A decimal or `0x` hexadecimal operand (30 R76). -/
def unsignedValue (cs : List Char) : Option Nat :=
  match cs with
  | '0' :: 'x' :: hs => digitsValue 16 hs
  | ds => digitsValue 10 ds

/-- An unsigned operand of `n` bits, refused outside its range (30 R76). -/
def unsignedOperand (n : Nat) (cs : List Char) : Option (BitVec n) :=
  match unsignedValue cs with
  | some v => if v < 2 ^ n then some (BitVec.ofNat n v) else none
  | none => none

/-- A signed decimal integer (30 R76). -/
def signedValue (cs : List Char) : Option Int :=
  match cs with
  | '-' :: ds => (digitsValue 10 ds).map fun v => -(v : Int)
  | ds => (digitsValue 10 ds).map fun v => (v : Int)

/-- A coordinate: signed decimal in -32768..32767, encoded modulo 65536 (30 R76). -/
def coordOperand (cs : List Char) : Option (BitVec 16) :=
  match signedValue cs with
  | some v => if -32768 ≤ v ∧ v ≤ 32767 then some (BitVec.ofInt 16 v) else none
  | none => none

/-- A FILL colour: a number, or the pseudo-operands `on` and `off` (30 R76, R77). -/
def colorOperand (cs : List Char) : Option (BitVec 16) :=
  match cs with
  | ['o', 'n'] => some 1
  | ['o', 'f', 'f'] => some 0
  | _ => unsignedOperand 16 cs

/-- The mode word of `setpixel` (30 R77). -/
def modeOperand (cs : List Char) : Option PixelMode :=
  match cs with
  | ['o', 'n'] => some .on
  | ['o', 'f', 'f'] => some .off
  | ['i', 'n', 'v', 'e', 'r', 's', 'e'] => some .inverse
  | _ => none

/-- The byte list of `cmdl`: 1 to 255 bytes (30 R76). -/
def listOperand (ops : List (List Char)) : Option (List Byte) :=
  match ops.mapM (unsignedOperand 8) with
  | some bs => if 1 ≤ bs.length ∧ bs.length ≤ 255 then some bs else none
  | none => none

/-- Text between commas. -/
def splitCommas (cs : List Char) : List (List Char) :=
  match cs with
  | [] => [[]]
  | c :: rest =>
    if c = ',' then [] :: splitCommas rest
    else match splitCommas rest with
      | [] => [[c]]
      | w :: ws => (c :: w) :: ws

/-- The operands after a mnemonic: none for an empty rest, else what stands between the commas. -/
def operandsOf (cs : List Char) : List (List Char) :=
  if (trimBlanks cs).isEmpty then [] else (splitCommas cs).map trimBlanks

/-- A request with two coordinates. -/
def coordPair (a b : List Char) (f : BitVec 16 → BitVec 16 → Instr) : Option Instr :=
  (coordOperand a).bind fun x => (coordOperand b).map fun y => f x y

/-- One request or pseudo-instruction from its lower-case mnemonic and operands (30 R76, R77). -/
def assembleRequest (mn : List Char) (ops : List (List Char)) : Option Instr :=
  match mn, ops with
  | ['i', 'n', 'i', 't'], [] => some .init
  | ['p', 'c', 'l', 'r'], [x, y] => coordPair x y .pclr
  | ['p', 's', 'e', 't'], [x, y] => coordPair x y .pset
  | ['p', 'i', 'n', 'v'], [x, y] => coordPair x y .pinv
  | ['f', 'i', 'l', 'l'], [c] => (colorOperand c).map .fill
  | ['c', 'l', 'e', 'a', 'r'], [] => some .clear
  | ['f', 'l', 'u', 's', 'h'], [] => some .flush
  | ['f', 'c', 'l', 'e', 'a', 'r'], [] => some .fclear
  | ['c', 'm', 'd'], [b] => (unsignedOperand 8 b).map .cmd
  | ['c', 'm', 'd', 'l'], bs => (listOperand bs).map .cmdl
  | ['r', 'a', 'w', 'r', 'd'], [i] => (unsignedOperand 16 i).map .rawrd
  | ['r', 'a', 'w', 'w', 'r'], [i, v] =>
    (unsignedOperand 16 i).bind fun index => (unsignedOperand 8 v).map fun value => .rawwr index value
  | ['w', 'i', 'd', 't', 'h'], [] => some .width
  | ['h', 'e', 'i', 'g', 'h', 't'], [] => some .height
  | ['s', 'e', 't', 'p', 'i', 'x', 'e', 'l'], [x, y, m] =>
    (modeOperand m).bind fun mode => coordPair x y mode.setPixel
  | ['s', 'e', 'n', 'd', 'r', 'a', 'w'], [b] => (unsignedOperand 8 b).map .cmd
  | _, _ => none

/-- A line's text before its `;` comment, blanks trimmed (30 R76). -/
def lineText (line : List Char) : List Char := trimBlanks (line.takeWhile fun c => c ≠ ';')

/-- One line: nothing (`some none`), a request, or refused (`none`) (30 R76). -/
def parseLine (line : List Char) : Option (Option Instr) :=
  if (lineText line).isEmpty then some none
  else (assembleRequest (((lineText line).takeWhile fun c => !isBlank c).map lowerChar)
    (operandsOf ((lineText line).dropWhile fun c => !isBlank c))).map some

/-- The words one line encodes (30 R76). -/
def assembleLine (line : List Char) : Option (List Word) :=
  match parseLine line with
  | some (some i) => some (encode i)
  | some none => some []
  | none => none

end Sys2Proof.Machine
end

