-- ==== Sys2Proof/Machine/Display.lean ====
section
/-! DEFINITION. The reference display controller (41 R160, R161): functions of a delivered transaction list, no state of
the block (10 R34). They state what a FLUSH or FCLEAR shows; no meaning of a request uses them. -/

namespace Sys2Proof.Machine

/-- `CM[l][c]` by line and column: a byte the reference model fixes, or `none`, any value (41 R160; log entry 14). -/
abbrev CtrlMem := Nat → Nat → Option Byte

/-- A controller of which nothing is known: after power-up, and after a transaction the reference model leaves open. -/
def CtrlMem.unknown : CtrlMem := fun _ _ => none

/-- The lines that three transactions select: every `l` whose `ASEL(0x40 + l)` they are (41 R160). -/
def selectedLines (p : Config.Params) (sel : List Txn) : List Nat :=
  (List.range Config.lines).filter fun l => asel p (Config.lineAddr l) = sel

/-- A transaction of the form `DATA(bs)` (41 R142). -/
def isData (t : Txn) : Bool := decide (t.addr = Config.busAddr) && decide (t.bytes.length = Config.width)

/-- `CM[l][c] <- bs[c]` for the given lines and every column (41 R160). -/
def writeLines (ls : List Nat) (bs : List Byte) (cm : CtrlMem) : CtrlMem :=
  fun l c => if l ∈ ls ∧ c < Config.width then bs[c]? else cm l c

/-- Deliver transactions in order: an address-select sequence immediately followed by its data writes a line; any
transaction outside that pattern leaves every byte open (41 R160). DESIGN CHOICE, unsafe (log entry 20): `ts` is what
was delivered, and a transaction that was sent and lost leaves no mark in it; 41 R163 calls the controller's state
unspecified after a loss, so the answer stands for the controller only where nothing was lost. -/
def deliver (p : Config.Params) (ts : List Txn) (cm : CtrlMem) : CtrlMem :=
  match ts with
  | [] => cm
  | a :: b :: c :: d :: rest =>
    if isData d && !(selectedLines p [a, b, c]).isEmpty then
      deliver p rest (writeLines (selectedLines p [a, b, c]) d.bytes cm)
    else deliver p (b :: c :: d :: rest) .unknown
  | _ :: rest => deliver p rest .unknown

/-- What physical row `r` of column `x` shows, if the reference model fixes it (41 R161). -/
def physical (cm : CtrlMem) (x r : Nat) : Option Bool :=
  if r = 0 then (cm 8 x).map fun b => b.getLsbD 7
  else (cm ((r - 1) / 8) x).map fun b => b.getLsbD (7 - (r - 1) % 8)

/-- A byte-for-byte copy, line `l` receiving band `l` unchanged: what this block does NOT send (41 R152). -/
def naiveTxns (p : Config.Params) (fb : Nat → Byte) : List Txn :=
  (List.range Config.lines).flatMap fun l =>
    lineWrite p l ((List.range Config.width).map fun x => fb (x + l * Config.width))

end Sys2Proof.Machine
end

