-- ==== Sys2Proof/Safety.lean ====
section
/-! DEFINITION. The terms claims use: when the block accepts a request (10 R27), which requests are illegal (30 R72,
R73), what an instruction leaves alone, the normal end of a run (70 R241), and the invariant every step keeps. -/

namespace Sys2Proof.Machine

/-- No reset is asserted in the coming step. -/
def State.NoReset (s : State) : Prop := s.resetIn.head? ≠ some true

/-- ISSUE is enabled (10 R27), and the reset line is not asserted in the coming step. -/
def State.Accepting (s : State) : Prop := s.NoReset ∧ s.txq = [] ∧ s.faulted = false

/-- One sample of the reset line gone by. -/
def State.sampled (s : State) : State := { s with resetIn := s.resetIn.tail }

/-- The end of a run (70 R241): every presented request completed without fault, nothing left to emit. -/
def State.NormalEnd (s : State) : Prop := s.port = [] ∧ s.txq = [] ∧ s.faulted = false

/-- `t` is `s` but for framebuffer contents and one response more. -/
def State.SameButFb (s t : State) (r : Option Byte) : Prop :=
  t = { s with fb := t.fb, responses := s.responses ++ [r] }

/-- `t` is `s` but for transactions appended to the queue and one response more. -/
def State.SameButQueue (s t : State) (ts : List Txn) (r : Option Byte) : Prop :=
  t = { s with txq := s.txq ++ ts, responses := s.responses ++ [r] }

/-- `t` is `s` with a fault recorded for the request whose header is `w`, and nothing else changed (60 R201). -/
def State.Faulted (s t : State) (code : BitVec 4) (w : Word) : Prop :=
  t = { s with faulted := true, cause := code, faultReq := w }

/-- The illegal requests, as 30 R72 and R73 list them, for a header word and the words presented after it. -/
def IllegalRequest (w : Word) (ws : List Word) : Prop :=
  let op := (w.extractLsb' 56 8).toNat
  let n := (w.extractLsb' 0 8).toNat
  op = 0x00 ∨ 0x0D ≤ op ∨
  ((op = 0x01 ∨ op = 0x04 ∨ op = 0x05 ∨ op = 0x06 ∨ op = 0x0B ∨ op = 0x0C) ∧ w.extractLsb' 0 56 ≠ 0) ∨
  (op = 0x02 ∧ (w.extractLsb' 34 22 ≠ 0 ∨ w.extractLsb' 32 2 = 0b11)) ∨
  ((op = 0x03 ∨ op = 0x09) ∧ w.extractLsb' 16 40 ≠ 0) ∨
  (op = 0x07 ∧ w.extractLsb' 8 48 ≠ 0) ∨
  (op = 0x0A ∧ w.extractLsb' 24 32 ≠ 0) ∨
  (op = 0x08 ∧ (w.extractLsb' 8 48 ≠ 0 ∨ n = 0 ∨
    ((n + 7) / 8 ≤ ws.length ∧ ∃ k, n ≤ k ∧ k < 8 * ((n + 7) / 8) ∧
      (ws.getD (k / 8) 0).extractLsb' (8 * (k % 8)) 8 ≠ 0)))

/-- Presented to an accepting block, the words `w :: ws` raise ILLEGAL_REQUEST and change nothing else but the port
they stood on. -/
def RaisesIllegal (w : Word) (ws : List Word) : Prop :=
  ∀ s : State, s.Accepting → s.port = w :: ws →
    ∃ rest t, step s = .next t ∧ State.Faulted (s.sampled.setPort rest) t 1 w

/-- The pixel request word of a mode (30 R76). -/
def pixelWord (mode : Word) (x y : BitVec 16) : Word :=
  0x02#64 <<< 56 ||| mode <<< 32 ||| y.setWidth 64 <<< 16 ||| x.setWidth 64

/-- The coordinates name a pixel (40 R100), for signed 16-bit fields. -/
abbrev OnScreen (x y : BitVec 16) : Prop := (0 ≤ x.toInt ∧ x.toInt < 106) ∧ (0 ≤ y.toInt ∧ y.toInt < 65)

/-- A format's reserved bits `w[lo+len-1 : lo]` under opcode `op` must be zero: a word with one set raises
ILLEGAL_REQUEST (30 R73(a)). -/
def ReservedBitsRaise (op : Byte) (lo len : Nat) : Prop :=
  ∀ w ws, w.extractLsb' 56 8 = op → w.extractLsb' lo len ≠ 0 → RaisesIllegal w ws

/-- The one-word request `w` stands for is `i`, whatever words follow. -/
def Encodes (w : Word) (i : Instr) : Prop := ∀ rest, decode (w :: rest) = .instr i rest

/-- While `ALLOC = 0` the request faults NOT_INITIALIZED, recording its header `w`, and changes nothing else. -/
def NeedsInit (i : Instr) (w : Word) : Prop :=
  ∀ s : State, s.alloc = false → ∃ t, exec i s = .next t ∧ s.Faulted t 2 w

/-- The whole of a pixel request's rule: its word, its effect on every framebuffer byte and on nothing else, in and out
of bounds, and its two exceptions. `f` combines a byte with the pixel's mask. -/
def PixelRule (mode : Word) (i : BitVec 16 → BitVec 16 → Instr) (f : Byte → Byte → Byte) : Prop :=
  (∀ x y, Encodes (pixelWord mode x y) (i x y)) ∧
  (∀ x y (s : State), s.alloc = true → ∃ t, exec (i x y) s = .next t ∧ s.SameButFb t none ∧
    ∀ k, t.fbByte k = if OnScreen x y ∧ k = x.toNat + y.toNat / 8 * 106
      then f (s.fbByte k) (0x80#8 >>> (y.toNat % 8)) else s.fbByte k) ∧
  (∀ x y, NeedsInit (i x y) (pixelWord mode x y)) ∧
  ReservedBitsRaise 0x02 34 22

/-- The pixel requests, as functions of their coordinate fields. -/
def pixelRequests : List (BitVec 16 → BitVec 16 → Instr) := [.pset, .pclr, .pinv]

/-- A raw access past the framebuffer (60 R200). -/
def RawOutOfRange (i : Instr) : Prop :=
  ∃ k : BitVec 16, (i = .rawrd k ∨ ∃ v, i = .rawwr k v) ∧ 954 ≤ k.toNat

/-- Two states that agree on everything but what reset left in the framebuffer: before a successful INIT their bytes
are unrelated; after one both lists are the same and complete. -/
def SameButResetContents (s t : State) : Prop :=
  t = { s with fb := t.fb, resets := t.resets } ∧
  (s.alloc = true → t.fb = s.fb ∧ ∀ i, i < 954 → (Memory.read s.fb i).isSome = true)

/-- What every reachable state satisfies. -/
structure State.Inv (s : State) : Prop where
  /-- The framebuffer list keeps its canonical form. -/
  fb_wf : Memory.wf s.fb = true
  /-- After a successful INIT every byte has been written (10 R21). -/
  fb_written : s.alloc = true → ∀ i, i < Config.fbBytes → (Memory.read s.fb i).isSome = true
  /-- Before a successful INIT nothing has been queued or emitted (70 R231, R233). -/
  silent : s.alloc = false → s.txq = [] ∧ s.trace = []
  /-- A recorded fault has one of the three codes (60 R200). -/
  cause_legal : s.faulted = true → s.cause = 1 ∨ s.cause = 2 ∨ s.cause = 3
  /-- With no fault recorded, CAUSE and FAULT_REQ hold their reset values (10 R23). -/
  cause_clear : s.faulted = false → s.cause = 0 ∧ s.faultReq = 0
  /-- A fault never leaves TXQ non-empty (41 R153). -/
  fault_idle : s.faulted = true → s.txq = []
  /-- Every transaction is a non-empty write to BUS_ADDR (10 R26). -/
  txns : ∀ t, t ∈ s.txq ∨ t ∈ s.trace → t.addr = 0x3C ∧ t.bytes ≠ []

end Sys2Proof.Machine
end

