-- ==== Sys2Proof/Certificates/Slice0/Obligations.lean ====
section
/-! DEFINITION. The statements for the provers: the spec's numbered rules, the frames of every request, the invariant
every step keeps, and what a FLUSH shows. -/

open Sys2Proof Sys2Proof.Machine

/-! ### Reset and the invariant -/

/-- 70 R230: a reset event, from any state, leaves the values the rule lists, and every framebuffer byte at the free
value that stands for "unspecified" (log entries 3 and 4 say how the model holds the reset line and those values). -/
def Obligations.ResetEventLeavesSpecValues : Prop :=
  ∀ s : State, s.resetIn.head? = some true → ∃ t, step s = .next t ∧
    t.alloc = false ∧ t.faulted = false ∧ t.cause = 0 ∧ t.faultReq = 0 ∧ t.txq = [] ∧ t.trace = [] ∧ t.status = 0x00 ∧
    ∀ i, t.fbByte i = Config.fbDraw (s.resets + 1) i

/-- The machine's reset state holds the values of 70 R230 and waits, emitting nothing (70 R231; waiting as a step that
changes nothing is log entry 8). -/
def Obligations.ResetStateWaitsSilently : Prop :=
  State.reset.alloc = false ∧ State.reset.faulted = false ∧ State.reset.cause = 0 ∧ State.reset.faultReq = 0 ∧
  State.reset.txq = [] ∧ State.reset.trace = [] ∧ State.reset.status = 0x00 ∧
  (∀ i, State.reset.fbByte i = Config.fbDraw 0 i) ∧ step State.reset = .next State.reset

/-- The invariant holds at reset. -/
def Obligations.ResetMeetsInvariant : Prop := State.reset.Inv

/-- Every step, of any agent, from any state that meets the invariant gives a state that meets it. -/
def Obligations.StepKeepsInvariant : Prop := ∀ s t : State, s.Inv → step s = .next t → t.Inv

/-! ### Encoding -/

/-- Decoding an encoded well-formed request gives it back with the words after it, and its length is that of 30 R61. -/
def Obligations.DecodeOfEncodeIsIdentity : Prop :=
  ∀ i rest, i.wellFormed = true →
    decode (encode i ++ rest) = .instr i rest ∧ (encode i).length = requestLength (header i)

/-- Words that decode to a request are its encoding: no two word sequences mean the same request, and only well-formed
requests are decoded. -/
def Obligations.EncodeOfDecodeIsIdentity : Prop :=
  ∀ ws i rest, decode ws = .instr i rest → i.wellFormed = true ∧ ws = encode i ++ rest

/-- 30 R72, R73: the illegal requests are exactly those the two rules list, and executing one raises ILLEGAL_REQUEST;
and a header with its payload words is never left undecided (30 R75). -/
def Obligations.IllegalRequestsAreThoseListed : Prop :=
  (∀ w ws, (∃ why rest, decode (w :: ws) = .illegal why w rest) ↔ IllegalRequest w ws) ∧
  (∀ w ws, IllegalRequest w ws → RaisesIllegal w ws) ∧
  (∀ w ws, requestLength w ≤ (w :: ws).length → decode (w :: ws) ≠ .incomplete)

/-- No word fits two rows of the opcode table, and a well-formed request's header fits the row of its own mnemonic and
no other. -/
def Obligations.OpcodeTableRowsAreDisjoint : Prop :=
  opcodeTable.Pairwise (fun r q => ∀ w : Word, ¬(w &&& r.mask = r.pattern ∧ w &&& q.mask = q.pattern)) ∧
  ∀ i, i.wellFormed = true → ∀ r ∈ opcodeTable, header i &&& r.mask = r.pattern ↔ r.mnemonic = mnemonic i

/-- Words written out from 30 R76 and the vectors of 95 stand for the requests they are listed for. -/
def Obligations.SampleWordsDecode : Prop :=
  decode [0x0100000000000000] = .instr .init [] ∧
  decode [0x02000001000A0003] = .instr (.pset 3 10) [] ∧
  decode [0x02000000000A0003] = .instr (.pclr 3 10) [] ∧
  decode [0x020000027FFF7FFF] = .instr (.pinv 0x7FFF 0x7FFF) [] ∧
  decode [0x0300000000008000] = .instr (.fill 0x8000) [] ∧
  decode [0x0500000000000000] = .instr .flush [] ∧
  decode [0x07000000000000AE] = .instr (.cmd 0xAE) [] ∧
  decode [0x0800000000000003, 0x0000000000CCBBAA] = .instr (.cmdl [0xAA, 0xBB, 0xCC]) [] ∧
  decode [0x09000000000003B9] = .instr (.rawrd 953) [] ∧
  decode [0x0A000000000103B9] = .instr (.rawwr 953 0x01) []

/-! ### Steps -/

/-- When an accepting block's port begins with a legal request, the step is that request's meaning, its words taken off
the port and one reset-line sample gone by (log entries 2 and 3). -/
def Obligations.StepRunsDecodedRequest : Prop :=
  ∀ (s : State) i rest, s.Accepting → decode s.port = .instr i rest → step s = exec i (s.sampled.setPort rest)

/-- With no whole request presented the accepting block waits and changes nothing (log entries 2 and 8). -/
def Obligations.StepWaitsForWholeRequest : Prop :=
  ∀ s : State, s.Accepting → decode s.port = .incomplete → step s = .next s.sampled

/-- 41 R153: EMIT is enabled exactly when TXQ is non-empty, whatever FAULTED is, and moves its head to the end of
TRACE; nothing else happens, so a presented request is held (10 R27, 70 R235). -/
def Obligations.EmitMovesQueueHeadToTrace : Prop :=
  (∀ (s : State) x rest, s.NoReset → s.txq = x :: rest →
    step s = .next { s with txq := rest, trace := s.trace ++ [x], resetIn := s.resetIn.tail }) ∧
  (∀ s t : State, s.NoReset → s.txq = [] → step s = .next t → t.trace = s.trace)

/-- 20 R52: TRACE receives the queued transactions in exactly their queue order, and nothing else changes while they
drain (20 R53). -/
def Obligations.QueueDrainsInOrder : Prop :=
  ∀ (s : State) (k : Nat), s.resetIn = [] → k ≤ s.txq.length →
    Sys2Proof.core.run k s = .next { s with txq := s.txq.drop k, trace := s.trace ++ s.txq.take k }

/-- 41 R154: an accepted request's ISSUE and the EMITs of everything it queued end where one atomic step would: in its
ISSUE state with the queue moved to TRACE. -/
def Obligations.IssueThenDrainIsAtomic : Prop :=
  ∀ (s : State) i rest, s.Accepting → s.resetIn = [] → decode s.port = .instr i rest →
    ∃ t, exec i (s.setPort rest) = .next t ∧
      Sys2Proof.core.run (1 + t.txq.length) s = .next { t with txq := [], trace := t.trace ++ t.txq }

/-- 10 R25: TRACE only grows, by the transaction EMIT hands over; and nothing in the block reads it: with other
contents in TRACE a step does the same and appends the same. -/
def Obligations.TraceIsAppendOnlyAndUnread : Prop :=
  (∀ s t : State, s.NoReset → step s = .next t →
    t.trace = s.trace ∨ ∃ x, s.txq.head? = some x ∧ t.trace = s.trace ++ [x]) ∧
  (∀ (s t : State) tr, s.NoReset → step s = .next t →
    step { s with trace := tr } = .next { t with trace := tr ++ t.trace.drop s.trace.length })

/-- 10 R22: without reset, ALLOC never falls, and only an INIT whose allocation succeeded raises it. -/
def Obligations.AllocWrittenOnlyByInit : Prop :=
  ∀ s t : State, s.NoReset → step s = .next t →
    (s.alloc = true → t.alloc = true) ∧
    (s.alloc = false → t.alloc = true →
      s.Accepting ∧ (∃ rest, decode s.port = .instr .init rest) ∧ s.allocDraw = true)

/-- Whatever reset left in the framebuffer is never observable: two states that differ only in it take the same steps
to states that differ only in it, and a successful INIT makes their framebuffers equal (10 R21). -/
def Obligations.ResetContentsAreUnobservable : Prop :=
  ∀ s s' : State, SameButResetContents s s' →
    (∀ t, step s = .next t → ∃ t', step s' = .next t' ∧ SameButResetContents t t') ∧
    (step s = .fault .stopped → step s' = .fault .stopped)

/-- Every transaction a step queues is a non-empty write to bus address 0x3C (10 R26, 41 R140). -/
def Obligations.QueuedTransactionsAddressTheDisplay : Prop :=
  ∀ s t : State, step s = .next t → ∀ x ∈ t.txq, x ∈ s.txq ∨ (x.addr = 0x3C ∧ x.bytes ≠ [])

/-! ### Faults -/

/-- 60 R201: when a request's ISSUE step leaves the block faulted, it recorded one of the three causes and the request's
header word, and changed nothing else but the port it was accepted from. -/
def Obligations.FaultsArePrecise : Prop :=
  ∀ s t : State, s.Accepting → step s = .next t → t.faulted = true →
    ∃ w ws rest c, s.port = w :: ws ∧ (c = 1 ∨ c = 2 ∨ c = 3) ∧ State.Faulted (s.sampled.setPort rest) t c w

/-- 60 R202: a faulted block accepts nothing, keeps its fault record and its storage until reset, and is stuck once its
queue is empty and no reset is to come; a faulted state is no normal end of a run. -/
def Obligations.FaultsAreSticky : Prop :=
  (∀ s t : State, s.faulted = true → s.NoReset → step s = .next t →
    t.faulted = true ∧ t.cause = s.cause ∧ t.faultReq = s.faultReq ∧ t.port = s.port ∧
    t.responses = s.responses ∧ t.fb = s.fb ∧ t.alloc = s.alloc) ∧
  (∀ s : State, s.faulted = true → s.txq = [] → s.resetIn = [] → step s = .fault .stopped) ∧
  (∀ s : State, s.faulted = true → ¬s.NormalEnd)

/-- 60 R200, R203: an accepted request reports ILLEGAL_REQUEST if its words are illegal, else NOT_INITIALIZED if it is
not INIT and ALLOC = 0, else RAW_INDEX_RANGE if it is a raw access at 954 or above, else no fault. -/
def Obligations.ChecksRunInOrder : Prop :=
  (∀ (s : State) w ws, s.Accepting → s.port = w :: ws → IllegalRequest w ws →
    ∃ rest t, step s = .next t ∧ State.Faulted (s.sampled.setPort rest) t 1 w) ∧
  (∀ (s : State) w ws i rest, s.Accepting → s.port = w :: ws → decode s.port = .instr i rest →
    (i ≠ .init → s.alloc = false → ∃ t, step s = .next t ∧ State.Faulted (s.sampled.setPort rest) t 2 w) ∧
    (s.alloc = true → RawOutOfRange i → ∃ t, step s = .next t ∧ State.Faulted (s.sampled.setPort rest) t 3 w) ∧
    ((i = .init ∨ s.alloc = true) → ¬RawOutOfRange i →
      ∃ t, step s = .next t ∧ t.faulted = false ∧ t.cause = s.cause ∧ t.faultReq = s.faultReq))

/-- 10 R30: the bits of STATUS, and its reset value. -/
def Obligations.StatusViewBits : Prop :=
  (∀ s : State, s.status.getLsbD 0 = s.alloc ∧ s.status.getLsbD 1 = decide (s.txq ≠ []) ∧
    s.status.getLsbD 2 = s.faulted ∧ s.status.getLsbD 3 = false ∧ s.status.extractLsb' 4 4 = s.cause) ∧
  State.reset.status = 0x00

/-! ### Pixels -/

/-- 40 R100: the bounds check is `0 <= x < 106` and `0 <= y < 65` on the signed coordinates, and a pixel request outside
completes with no value and changes nothing. -/
def Obligations.OutOfBoundsPixelIsNoOp : Prop :=
  (∀ x y, inBounds (coord x) (coord y) = true ↔ (0 ≤ x.toInt ∧ x.toInt < 106) ∧ (0 ≤ y.toInt ∧ y.toInt < 65)) ∧
  ∀ i ∈ pixelRequests, ∀ x y (s : State), s.alloc = true → ¬OnScreen x y →
    exec (i x y) s = .next { s with responses := s.responses ++ [none] }

/-- 40 R101, R102, R103: band, bit position, one-hot mask and byte index of every pixel, and that byte and bit are the
pixel of 20 R43. -/
def Obligations.PixelMuxSelectsByteAndBit : Prop :=
  (∀ y, y < 65 → band y = y / 8 ∧ band y ≤ 8 ∧ pos y = 7 - y % 8 ∧ mask y = 0x80#8 >>> (y % 8) ∧
    mask y = 1#8 <<< pos y) ∧
  (List.range 8).map mask = [0x80, 0x40, 0x20, 0x10, 0x08, 0x04, 0x02, 0x01] ∧
  (∀ x y, x < 106 → y < 65 → pixelIndex x y = x + y / 8 * 106 ∧ pixelIndex x y ≤ 953) ∧
  pixelIndex 105 64 = 953 ∧
  ∀ (fb : Nat → Byte) x y, x < 106 → y < 65 → pixel fb x y = (fb (pixelIndex x y)).getLsbD (pos y)

/-- 40 R104. -/
def Obligations.PsetSetsOnePixel : Prop := PixelRule 0b01 .pset fun b m => b ||| m

/-- 40 R105. -/
def Obligations.PclrClearsOnePixel : Prop := PixelRule 0b00 .pclr fun b m => b &&& ~~~m

/-- 40 R106. -/
def Obligations.PinvTogglesOnePixel : Prop := PixelRule 0b10 .pinv fun b m => b ^^^ m

/-- 40 R114 (a) to (d), for a block with ALLOC = 1 and FAULTED = 0. -/
def Obligations.PixelAndFillLaws : Prop :=
  ∀ s : State, s.alloc = true → s.faulted = false →
    (∀ x y, OnScreen x y → ∃ t u, exec (.pset x y) s = .next t ∧ exec (.pclr x y) t = .next u ∧
      pixel u.fbByte x.toNat y.toNat = false ∧
      (pixel u.fbByte x.toNat y.toNat = pixel s.fbByte x.toNat y.toNat ↔ pixel s.fbByte x.toNat y.toNat = false)) ∧
    (∀ i ∈ pixelRequests, ∀ x y, ¬OnScreen x y →
      ∃ t, exec (i x y) s = .next t ∧ ∀ k, t.fbByte k = s.fbByte k) ∧
    (∀ c, c ≠ 0 → ∃ t u v, exec (.fill c) s = .next t ∧ exec (.fill 0) t = .next u ∧ exec .init s = .next v ∧
      ∀ k, k < 954 → u.fbByte k = 0x00 ∧ u.fbByte k = v.fbByte k) ∧
    (∀ x y, ∃ t u, exec (.pinv x y) s = .next t ∧ exec (.pinv x y) t = .next u ∧ ∀ k, u.fbByte k = s.fbByte k)

/-- 40 R115: a pixel request changes at most its own bit and never a padding bit; distinct pixels are distinct bits; and
pixel requests on distinct coordinates, on the screen or off it, commute. -/
def Obligations.PixelRequestsAreLocal : Prop :=
  (∀ i ∈ pixelRequests, ∀ x y (s : State), s.alloc = true → ∃ t, exec (i x y) s = .next t ∧
    ∀ k b, (t.fbByte k).getLsbD b ≠ (s.fbByte k).getLsbD b →
      OnScreen x y ∧ k = pixelIndex x.toNat y.toNat ∧ b = pos y.toNat ∧ (848 ≤ k → b = 7)) ∧
  (∀ x y x' y', x < 106 → y < 65 → x' < 106 → y' < 65 →
    pixelIndex x y = pixelIndex x' y' → pos y = pos y' → x = x' ∧ y = y') ∧
  (∀ i ∈ pixelRequests, ∀ j ∈ pixelRequests, ∀ x y x' y' (s : State), s.alloc = true →
    (x, y) ≠ (x', y') →
    ∃ t u t' u', exec (i x y) s = .next t ∧ exec (j x' y') t = .next u ∧
      exec (j x' y') s = .next t' ∧ exec (i x y) t' = .next u' ∧ ∀ k, u.fbByte k = u'.fbByte k)

/-! ### Bulk, raw and dimension requests -/

/-- 40 R107, R108: FILL writes every byte 0xFF for any non-zero colour, 0x00 for zero, and nothing else. -/
def Obligations.FillWritesEveryByte : Prop :=
  (∀ c : BitVec 16, Encodes (0x03#64 <<< 56 ||| c.setWidth 64) (.fill c)) ∧
  (∀ c (s : State), s.alloc = true → ∃ t, exec (.fill c) s = .next t ∧ s.SameButFb t none ∧
    ∀ k, k < 954 → t.fbByte k = if c ≠ 0 then 0xFF else 0x00) ∧
  (∀ c : BitVec 16, NeedsInit (.fill c) (0x03#64 <<< 56 ||| c.setWidth 64)) ∧
  ReservedBitsRaise 0x03 16 40

/-- 40 R109: CLEAR writes every byte 0x00, as `fill 0` does, and nothing else. -/
def Obligations.ClearZeroesEveryByte : Prop :=
  Encodes 0x0400000000000000 .clear ∧
  (∀ s : State, s.alloc = true → ∃ t, exec .clear s = .next t ∧ s.SameButFb t none ∧ exec (.fill 0) s = .next t ∧
    ∀ k, k < 954 → t.fbByte k = 0x00) ∧
  NeedsInit .clear 0x0400000000000000 ∧ ReservedBitsRaise 0x04 0 56

/-- 40 R110: RAWRD responds the byte at an index below 954 and faults RAW_INDEX_RANGE at any other. -/
def Obligations.RawReadRespondsByte : Prop :=
  (∀ k : BitVec 16, Encodes (0x09#64 <<< 56 ||| k.setWidth 64) (.rawrd k)) ∧
  (∀ (k : BitVec 16) (s : State), s.alloc = true → k.toNat < 954 →
    exec (.rawrd k) s = .next { s with responses := s.responses ++ [some (s.fbByte k.toNat)] }) ∧
  (∀ (k : BitVec 16) (s : State), s.alloc = true → 954 ≤ k.toNat →
    ∃ t, exec (.rawrd k) s = .next t ∧ s.Faulted t 3 (0x09#64 <<< 56 ||| k.setWidth 64)) ∧
  (∀ k : BitVec 16, NeedsInit (.rawrd k) (0x09#64 <<< 56 ||| k.setWidth 64)) ∧
  ReservedBitsRaise 0x09 16 40

/-- 40 R111: RAWWR writes the byte at an index below 954 and no other byte, and faults RAW_INDEX_RANGE at any other. -/
def Obligations.RawWriteStoresByte : Prop :=
  (∀ (k : BitVec 16) (v : Byte),
    Encodes (0x0A#64 <<< 56 ||| v.setWidth 64 <<< 16 ||| k.setWidth 64) (.rawwr k v)) ∧
  (∀ (k : BitVec 16) v (s : State), s.alloc = true → k.toNat < 954 →
    ∃ t, exec (.rawwr k v) s = .next t ∧ s.SameButFb t none ∧
      ∀ j, t.fbByte j = if j = k.toNat then v else s.fbByte j) ∧
  (∀ (k : BitVec 16) (v : Byte) (s : State), s.alloc = true → 954 ≤ k.toNat → ∃ t, exec (.rawwr k v) s = .next t ∧
    s.Faulted t 3 (0x0A#64 <<< 56 ||| v.setWidth 64 <<< 16 ||| k.setWidth 64)) ∧
  (∀ (k : BitVec 16) (v : Byte),
    NeedsInit (.rawwr k v) (0x0A#64 <<< 56 ||| v.setWidth 64 <<< 16 ||| k.setWidth 64)) ∧
  ReservedBitsRaise 0x0A 24 32

/-- 40 R112, R113: WIDTH responds 0x6A and HEIGHT 0x41, and neither changes anything else. -/
def Obligations.DimensionsRespondConstants : Prop :=
  (Encodes 0x0B00000000000000 .width ∧
    (∀ s : State, s.alloc = true → exec .width s = .next { s with responses := s.responses ++ [some 0x6A] }) ∧
    NeedsInit .width 0x0B00000000000000 ∧ ReservedBitsRaise 0x0B 0 56) ∧
  (Encodes 0x0C00000000000000 .height ∧
    (∀ s : State, s.alloc = true → exec .height s = .next { s with responses := s.responses ++ [some 0x41] }) ∧
    NeedsInit .height 0x0C00000000000000 ∧ ReservedBitsRaise 0x0C 0 56)

/-- The drawing requests and RAWWR change only FB and add no transaction, so they have no effect on the display until a
FLUSH (20 R48, 70 R237). -/
def Obligations.DrawingRequestsChangeOnlyFb : Prop :=
  ∀ i, ((∃ j ∈ pixelRequests, ∃ x y, i = j x y) ∨ (∃ c, i = .fill c) ∨ i = .clear ∨
      (∃ k v, i = .rawwr k v ∧ k.toNat < 954)) →
    ∀ s : State, s.alloc = true → ∃ t, exec i s = .next t ∧ s.SameButFb t none

/-! ### Transport -/

/-- 41 R140, R141, R142: commands, address-select sequences and data transactions, all to bus address 0x3C, nothing
added to their bytes. -/
def Obligations.TransactionBuildingBlocks : Prop :=
  (∀ bs, commandTxn bs = ⟨0x3C, bs⟩ ∧ dataTxn bs = ⟨0x3C, bs⟩) ∧
  ∀ p a, asel p a = [⟨0x3C, (p.setAddress a).bytes⟩, ⟨0x3C, p.colStart.bytes⟩, ⟨0x3C, p.writeEnable.bytes⟩]

/-- 41 R143, R144, R145: the line images, and bit by bit which display row each bit of them carries. -/
def Obligations.LineImagesCarryRemappedRows : Prop :=
  (∀ fb : Nat → Byte, topLine fb = (List.range 106).map fun x => fb x &&& 0x80) ∧
  (∀ (fb : Nat → Byte) l, remapLine fb l =
    (List.range 106).map fun x => ((fb (x + l * 106) &&& 0x7F) <<< 1) ||| ((fb (x + (l + 1) * 106) &&& 0x80) >>> 7)) ∧
  (∀ (fb : Nat → Byte) x b, b < 8 → (topByte (fb x)).getLsbD b = if b = 7 then pixel fb x 0 else false) ∧
  (∀ (fb : Nat → Byte) l x b, l < 8 → b < 8 →
    (remapByte (fb (x + l * 106)) (fb (x + (l + 1) * 106))).getLsbD b = pixel fb x (8 * l + 8 - b))

/-- 41 R146: FLUSH queues line 0x48 with the top rows, then lines 0x40..0x47 with the row remap, each after its
address-select sequence, and changes nothing else. -/
def Obligations.FlushQueuesRemappedLines : Prop :=
  Encodes 0x0500000000000000 .flush ∧
  (∀ s : State, s.alloc = true → ∃ t, exec .flush s = .next t ∧
    s.SameButQueue t (asel Config.params 0x48 ++ [dataTxn (topLine s.fbByte)] ++
      (List.range 8).flatMap fun l =>
        asel Config.params (BitVec.ofNat 8 (0x40 + l)) ++ [dataTxn (remapLine s.fbByte l)]) none) ∧
  NeedsInit .flush 0x0500000000000000 ∧ ReservedBitsRaise 0x05 0 56

/-- 41 R147: FCLEAR queues 106 zero bytes for each of lines 0x40..0x48 in increasing order, and changes nothing else. -/
def Obligations.FclearQueuesZeroLines : Prop :=
  Encodes 0x0600000000000000 .fclear ∧
  (∀ s : State, s.alloc = true → ∃ t, exec .fclear s = .next t ∧
    s.SameButQueue t ((List.range 9).flatMap fun l =>
      asel Config.params (BitVec.ofNat 8 (0x40 + l)) ++ [dataTxn (List.replicate 106 0x00)]) none) ∧
  NeedsInit .fclear 0x0600000000000000 ∧ ReservedBitsRaise 0x06 0 56

/-- 41 R148: INIT draws only while ALLOC = 0; a failed draw answers 0x00 and changes nothing else but the draw used up;
otherwise ALLOC is 1, every byte is 0x00, one transaction for each configuration frame is queued, and 0x01 is answered. -/
def Obligations.InitAllocatesZeroesAndConfigures : Prop :=
  Encodes 0x0100000000000000 .init ∧
  (∀ s : State, s.alloc = true → ∃ t, exec .init s = .next t ∧
    t = { s with
      fb := t.fb, txq := s.txq ++ Config.params.initFrames.map fun f => ⟨0x3C, f.bytes⟩,
      responses := s.responses ++ [some 0x01] } ∧
    ∀ k, k < 954 → t.fbByte k = 0x00) ∧
  (∀ s : State, s.alloc = false → s.allocDraw = true → ∃ t, exec .init s = .next t ∧
    t = { s with
      fb := t.fb, alloc := true, txq := s.txq ++ Config.params.initFrames.map fun f => ⟨0x3C, f.bytes⟩,
      responses := s.responses ++ [some 0x01], allocIn := s.allocIn.tail, draws := s.draws + 1 } ∧
    ∀ k, k < 954 → t.fbByte k = 0x00) ∧
  (∀ s : State, s.alloc = false → s.allocDraw = false →
    exec .init s = .next { s with
      responses := s.responses ++ [some 0x00], allocIn := s.allocIn.tail, draws := s.draws + 1 }) ∧
  ReservedBitsRaise 0x01 0 56

/-- 41 R149: CMD queues the one byte as one transaction, nothing added, and changes nothing else. -/
def Obligations.CmdQueuesOneByte : Prop :=
  (∀ b : Byte, Encodes (0x07#64 <<< 56 ||| b.setWidth 64) (.cmd b)) ∧
  (∀ b (s : State), s.alloc = true → ∃ t, exec (.cmd b) s = .next t ∧ s.SameButQueue t [⟨0x3C, [b]⟩] none) ∧
  (∀ b : Byte, NeedsInit (.cmd b) (0x07#64 <<< 56 ||| b.setWidth 64)) ∧
  ReservedBitsRaise 0x07 8 48

/-- 30 R68, 41 R150: a CMDL of N bytes packed low byte first queues them as one transaction, in payload order, nothing
added, and changes nothing else; `N = 0`, a reserved bit and a non-zero spare byte are illegal. -/
def Obligations.CmdlQueuesByteList : Prop :=
  (∀ n (ps rest : List Word), 1 ≤ n → n ≤ 255 → ps.length = (n + 7) / 8 →
    (∀ k, n ≤ k → k < 8 * ((n + 7) / 8) → (ps.getD (k / 8) 0).extractLsb' (8 * (k % 8)) 8 = 0) →
    decode ((0x08#64 <<< 56 ||| BitVec.ofNat 64 n) :: (ps ++ rest)) =
      .instr (.cmdl ((List.range n).map fun k => (ps.getD (k / 8) 0).extractLsb' (8 * (k % 8)) 8)) rest) ∧
  (∀ bs (s : State), 1 ≤ bs.length → bs.length ≤ 255 → s.alloc = true →
    ∃ t, exec (.cmdl bs) s = .next t ∧ s.SameButQueue t [⟨0x3C, bs⟩] none) ∧
  (∀ bs, 1 ≤ bs.length → bs.length ≤ 255 →
    NeedsInit (.cmdl bs) (0x08#64 <<< 56 ||| BitVec.ofNat 64 bs.length)) ∧
  (∀ ws, RaisesIllegal 0x0800000000000000 ws) ∧
  (∀ n (ps : List Word) k, 1 ≤ n → n ≤ 255 → (n + 7) / 8 ≤ ps.length → n ≤ k → k < 8 * ((n + 7) / 8) →
    (ps.getD (k / 8) 0).extractLsb' (8 * (k % 8)) 8 ≠ 0 →
    RaisesIllegal (0x08#64 <<< 56 ||| BitVec.ofNat 64 n) ps) ∧
  ReservedBitsRaise 0x08 8 48

/-- 41 R151: FLUSH and FCLEAR each queue 36 transactions, nine times an address-select sequence and a data transaction
of 106 bytes, at the line addresses the rule lists, in its order. -/
def Obligations.FlushAndFclearCounts : Prop :=
  ∀ s : State, s.alloc = true → s.txq = [] →
    (∃ t, exec .flush s = .next t ∧ t.txq.length = 36 ∧
      ∀ k a, [0x48, 0x40, 0x41, 0x42, 0x43, 0x44, 0x45, 0x46, 0x47][k]? = some a →
        (t.txq.drop (4 * k)).take 3 = asel Config.params a ∧
        ∃ bs, t.txq[4 * k + 3]? = some (dataTxn bs) ∧ bs.length = 106) ∧
    (∃ t, exec .fclear s = .next t ∧ t.txq.length = 36 ∧
      ∀ k a, [0x40, 0x41, 0x42, 0x43, 0x44, 0x45, 0x46, 0x47, 0x48][k]? = some a →
        (t.txq.drop (4 * k)).take 3 = asel Config.params a ∧
        t.txq[4 * k + 3]? = some (dataTxn (List.replicate 106 0x00)))

/-- The padding bits never reach the bus: framebuffers that agree on bands 0..7 and on bit 7 of band 8 send the same
transactions (20 R44, 41 R144). -/
def Obligations.PaddingBitsAreNeverSent : Prop :=
  ∀ s t : State, (∀ k, k < 848 → s.fbByte k = t.fbByte k) →
    (∀ k, 848 ≤ k → k < 954 → (s.fbByte k).getLsbD 7 = (t.fbByte k).getLsbD 7) →
    flushTxns Config.params s.fbByte = flushTxns Config.params t.fbByte

/-! ### What the reference display shows -/

/-- Under the reference controller, whose nine lines have nine different set-address frames (log entry 14), a delivered
FLUSH shows every pixel of the framebuffer at its own place, whatever the controller held before (41 R162). -/
def Obligations.FlushShowsTheFramebuffer : Prop :=
  ∀ (p : Config.Params) (fb : Nat → Byte) (cm : CtrlMem), p.LinesDistinct →
    ∀ x r, x < 106 → r < 65 → physical (deliver p (flushTxns p fb) cm) x r = some (pixel fb x r)

/-- Under the reference controller a delivered FCLEAR leaves every line byte 0x00 and every row off, whatever the
controller held before (41 R163). -/
def Obligations.FclearBlanksTheDisplay : Prop :=
  ∀ (p : Config.Params) (cm : CtrlMem),
    (∀ l c, l < 9 → c < 106 → deliver p (fclearTxns p) cm l c = some 0x00) ∧
    ∀ x r, x < 106 → r < 65 → physical (deliver p (fclearTxns p) cm) x r = some false

/-- A byte-for-byte copy would show framebuffer row `r - 1` on physical row `r` and row 64 on row 0, so it is not what
this block sends (41 R152). -/
def Obligations.NaiveCopyShowsShiftedRows : Prop :=
  ∀ (p : Config.Params) (fb : Nat → Byte) (cm : CtrlMem), p.LinesDistinct →
    ∀ x r, x < 106 → r < 65 →
      physical (deliver p (naiveTxns p fb) cm) x r = some (pixel fb x (if r = 0 then 64 else r - 1))

/-! ### Assembler -/

/-- Every line the assembler accepts is empty or encodes one well-formed request, and its words decode to that request
(30 R76). -/
def Obligations.AssembledLinesDecode : Prop :=
  ∀ line ws, assembleLine line = some ws →
    (parseLine line = some none ∧ ws = []) ∨
    ∃ i, parseLine line = some (some i) ∧ i.wellFormed = true ∧ decode ws = .instr i []

/-- 30 R77: each pseudo-instruction is exactly the request the rule names. -/
def Obligations.PseudoInstructionsExpand : Prop :=
  (∀ x y, assembleRequest "setpixel".toList [x, y, "on".toList] = assembleRequest "pset".toList [x, y]) ∧
  (∀ x y, assembleRequest "setpixel".toList [x, y, "off".toList] = assembleRequest "pclr".toList [x, y]) ∧
  (∀ x y, assembleRequest "setpixel".toList [x, y, "inverse".toList] = assembleRequest "pinv".toList [x, y]) ∧
  assembleRequest "fill".toList ["on".toList] = assembleRequest "fill".toList ["1".toList] ∧
  assembleRequest "fill".toList ["off".toList] = assembleRequest "fill".toList ["0".toList] ∧
  ∀ b, assembleRequest "sendraw".toList [b] = assembleRequest "cmd".toList [b]
end

