-- ==== Sys2Proof/Laws/State.lean ====
section
/-! SUPPORT. One lemma for each field after each named update, so that no proof unfolds a record update. -/

namespace Sys2Proof.Machine

variable (s : State)

@[simp] theorem State.fbWrite_fb (i : Nat) (v : Byte) : (s.fbWrite i v).fb = Memory.write s.fb i v := rfl
@[simp] theorem State.fbWrite_alloc (i : Nat) (v : Byte) : (s.fbWrite i v).alloc = s.alloc := rfl
@[simp] theorem State.fbWrite_faulted (i : Nat) (v : Byte) : (s.fbWrite i v).faulted = s.faulted := rfl
@[simp] theorem State.fbWrite_cause (i : Nat) (v : Byte) : (s.fbWrite i v).cause = s.cause := rfl
@[simp] theorem State.fbWrite_faultReq (i : Nat) (v : Byte) : (s.fbWrite i v).faultReq = s.faultReq := rfl
@[simp] theorem State.fbWrite_txq (i : Nat) (v : Byte) : (s.fbWrite i v).txq = s.txq := rfl
@[simp] theorem State.fbWrite_trace (i : Nat) (v : Byte) : (s.fbWrite i v).trace = s.trace := rfl
@[simp] theorem State.fbWrite_port (i : Nat) (v : Byte) : (s.fbWrite i v).port = s.port := rfl
@[simp] theorem State.fbWrite_responses (i : Nat) (v : Byte) : (s.fbWrite i v).responses = s.responses := rfl
@[simp] theorem State.fbWrite_allocIn (i : Nat) (v : Byte) : (s.fbWrite i v).allocIn = s.allocIn := rfl
@[simp] theorem State.fbWrite_draws (i : Nat) (v : Byte) : (s.fbWrite i v).draws = s.draws := rfl
@[simp] theorem State.fbWrite_resetIn (i : Nat) (v : Byte) : (s.fbWrite i v).resetIn = s.resetIn := rfl
@[simp] theorem State.fbWrite_resets (i : Nat) (v : Byte) : (s.fbWrite i v).resets = s.resets := rfl

@[simp] theorem State.fbFill_fb (v : Byte) : (s.fbFill v).fb = Memory.fill v := rfl
@[simp] theorem State.fbFill_alloc (v : Byte) : (s.fbFill v).alloc = s.alloc := rfl
@[simp] theorem State.fbFill_faulted (v : Byte) : (s.fbFill v).faulted = s.faulted := rfl
@[simp] theorem State.fbFill_cause (v : Byte) : (s.fbFill v).cause = s.cause := rfl
@[simp] theorem State.fbFill_faultReq (v : Byte) : (s.fbFill v).faultReq = s.faultReq := rfl
@[simp] theorem State.fbFill_txq (v : Byte) : (s.fbFill v).txq = s.txq := rfl
@[simp] theorem State.fbFill_trace (v : Byte) : (s.fbFill v).trace = s.trace := rfl
@[simp] theorem State.fbFill_port (v : Byte) : (s.fbFill v).port = s.port := rfl
@[simp] theorem State.fbFill_responses (v : Byte) : (s.fbFill v).responses = s.responses := rfl
@[simp] theorem State.fbFill_allocIn (v : Byte) : (s.fbFill v).allocIn = s.allocIn := rfl
@[simp] theorem State.fbFill_draws (v : Byte) : (s.fbFill v).draws = s.draws := rfl
@[simp] theorem State.fbFill_resetIn (v : Byte) : (s.fbFill v).resetIn = s.resetIn := rfl
@[simp] theorem State.fbFill_resets (v : Byte) : (s.fbFill v).resets = s.resets := rfl

@[simp] theorem State.emit_fb (ts : List Txn) : (s.emit ts).fb = s.fb := rfl
@[simp] theorem State.emit_alloc (ts : List Txn) : (s.emit ts).alloc = s.alloc := rfl
@[simp] theorem State.emit_faulted (ts : List Txn) : (s.emit ts).faulted = s.faulted := rfl
@[simp] theorem State.emit_cause (ts : List Txn) : (s.emit ts).cause = s.cause := rfl
@[simp] theorem State.emit_faultReq (ts : List Txn) : (s.emit ts).faultReq = s.faultReq := rfl
@[simp] theorem State.emit_txq (ts : List Txn) : (s.emit ts).txq = s.txq ++ ts := rfl
@[simp] theorem State.emit_trace (ts : List Txn) : (s.emit ts).trace = s.trace := rfl
@[simp] theorem State.emit_port (ts : List Txn) : (s.emit ts).port = s.port := rfl
@[simp] theorem State.emit_responses (ts : List Txn) : (s.emit ts).responses = s.responses := rfl
@[simp] theorem State.emit_allocIn (ts : List Txn) : (s.emit ts).allocIn = s.allocIn := rfl
@[simp] theorem State.emit_draws (ts : List Txn) : (s.emit ts).draws = s.draws := rfl
@[simp] theorem State.emit_resetIn (ts : List Txn) : (s.emit ts).resetIn = s.resetIn := rfl
@[simp] theorem State.emit_resets (ts : List Txn) : (s.emit ts).resets = s.resets := rfl

@[simp] theorem State.respond_fb (r : Option Byte) : (s.respond r).fb = s.fb := rfl
@[simp] theorem State.respond_alloc (r : Option Byte) : (s.respond r).alloc = s.alloc := rfl
@[simp] theorem State.respond_faulted (r : Option Byte) : (s.respond r).faulted = s.faulted := rfl
@[simp] theorem State.respond_cause (r : Option Byte) : (s.respond r).cause = s.cause := rfl
@[simp] theorem State.respond_faultReq (r : Option Byte) : (s.respond r).faultReq = s.faultReq := rfl
@[simp] theorem State.respond_txq (r : Option Byte) : (s.respond r).txq = s.txq := rfl
@[simp] theorem State.respond_trace (r : Option Byte) : (s.respond r).trace = s.trace := rfl
@[simp] theorem State.respond_port (r : Option Byte) : (s.respond r).port = s.port := rfl
@[simp] theorem State.respond_responses (r : Option Byte) : (s.respond r).responses = s.responses ++ [r] := rfl
@[simp] theorem State.respond_allocIn (r : Option Byte) : (s.respond r).allocIn = s.allocIn := rfl
@[simp] theorem State.respond_draws (r : Option Byte) : (s.respond r).draws = s.draws := rfl
@[simp] theorem State.respond_resetIn (r : Option Byte) : (s.respond r).resetIn = s.resetIn := rfl
@[simp] theorem State.respond_resets (r : Option Byte) : (s.respond r).resets = s.resets := rfl

@[simp] theorem State.setAlloc_fb : (s.setAlloc).fb = s.fb := rfl
@[simp] theorem State.setAlloc_alloc : (s.setAlloc).alloc = true := rfl
@[simp] theorem State.setAlloc_faulted : (s.setAlloc).faulted = s.faulted := rfl
@[simp] theorem State.setAlloc_cause : (s.setAlloc).cause = s.cause := rfl
@[simp] theorem State.setAlloc_faultReq : (s.setAlloc).faultReq = s.faultReq := rfl
@[simp] theorem State.setAlloc_txq : (s.setAlloc).txq = s.txq := rfl
@[simp] theorem State.setAlloc_trace : (s.setAlloc).trace = s.trace := rfl
@[simp] theorem State.setAlloc_port : (s.setAlloc).port = s.port := rfl
@[simp] theorem State.setAlloc_responses : (s.setAlloc).responses = s.responses := rfl
@[simp] theorem State.setAlloc_allocIn : (s.setAlloc).allocIn = s.allocIn := rfl
@[simp] theorem State.setAlloc_draws : (s.setAlloc).draws = s.draws := rfl
@[simp] theorem State.setAlloc_resetIn : (s.setAlloc).resetIn = s.resetIn := rfl
@[simp] theorem State.setAlloc_resets : (s.setAlloc).resets = s.resets := rfl

@[simp] theorem State.takeDraw_fb : (s.takeDraw).fb = s.fb := rfl
@[simp] theorem State.takeDraw_alloc : (s.takeDraw).alloc = s.alloc := rfl
@[simp] theorem State.takeDraw_faulted : (s.takeDraw).faulted = s.faulted := rfl
@[simp] theorem State.takeDraw_cause : (s.takeDraw).cause = s.cause := rfl
@[simp] theorem State.takeDraw_faultReq : (s.takeDraw).faultReq = s.faultReq := rfl
@[simp] theorem State.takeDraw_txq : (s.takeDraw).txq = s.txq := rfl
@[simp] theorem State.takeDraw_trace : (s.takeDraw).trace = s.trace := rfl
@[simp] theorem State.takeDraw_port : (s.takeDraw).port = s.port := rfl
@[simp] theorem State.takeDraw_responses : (s.takeDraw).responses = s.responses := rfl
@[simp] theorem State.takeDraw_allocIn : (s.takeDraw).allocIn = s.allocIn.tail := rfl
@[simp] theorem State.takeDraw_draws : (s.takeDraw).draws = s.draws + 1 := rfl
@[simp] theorem State.takeDraw_resetIn : (s.takeDraw).resetIn = s.resetIn := rfl
@[simp] theorem State.takeDraw_resets : (s.takeDraw).resets = s.resets := rfl

@[simp] theorem State.raiseFault_fb (c : Cause) (w : Word) : (s.raiseFault c w).fb = s.fb := rfl
@[simp] theorem State.raiseFault_alloc (c : Cause) (w : Word) : (s.raiseFault c w).alloc = s.alloc := rfl
@[simp] theorem State.raiseFault_faulted (c : Cause) (w : Word) : (s.raiseFault c w).faulted = true := rfl
@[simp] theorem State.raiseFault_cause (c : Cause) (w : Word) : (s.raiseFault c w).cause = c.code := rfl
@[simp] theorem State.raiseFault_faultReq (c : Cause) (w : Word) : (s.raiseFault c w).faultReq = w := rfl
@[simp] theorem State.raiseFault_txq (c : Cause) (w : Word) : (s.raiseFault c w).txq = s.txq := rfl
@[simp] theorem State.raiseFault_trace (c : Cause) (w : Word) : (s.raiseFault c w).trace = s.trace := rfl
@[simp] theorem State.raiseFault_port (c : Cause) (w : Word) : (s.raiseFault c w).port = s.port := rfl
@[simp] theorem State.raiseFault_responses (c : Cause) (w : Word) : (s.raiseFault c w).responses = s.responses := rfl
@[simp] theorem State.raiseFault_allocIn (c : Cause) (w : Word) : (s.raiseFault c w).allocIn = s.allocIn := rfl
@[simp] theorem State.raiseFault_draws (c : Cause) (w : Word) : (s.raiseFault c w).draws = s.draws := rfl
@[simp] theorem State.raiseFault_resetIn (c : Cause) (w : Word) : (s.raiseFault c w).resetIn = s.resetIn := rfl
@[simp] theorem State.raiseFault_resets (c : Cause) (w : Word) : (s.raiseFault c w).resets = s.resets := rfl

@[simp] theorem State.resetEvent_fb : (s.resetEvent).fb = [] := rfl
@[simp] theorem State.resetEvent_alloc : (s.resetEvent).alloc = false := rfl
@[simp] theorem State.resetEvent_faulted : (s.resetEvent).faulted = false := rfl
@[simp] theorem State.resetEvent_cause : (s.resetEvent).cause = 0 := rfl
@[simp] theorem State.resetEvent_faultReq : (s.resetEvent).faultReq = 0 := rfl
@[simp] theorem State.resetEvent_txq : (s.resetEvent).txq = [] := rfl
@[simp] theorem State.resetEvent_trace : (s.resetEvent).trace = [] := rfl
@[simp] theorem State.resetEvent_port : (s.resetEvent).port = s.port := rfl
@[simp] theorem State.resetEvent_responses : (s.resetEvent).responses = [] := rfl
@[simp] theorem State.resetEvent_allocIn : (s.resetEvent).allocIn = s.allocIn := rfl
@[simp] theorem State.resetEvent_draws : (s.resetEvent).draws = s.draws := rfl
@[simp] theorem State.resetEvent_resetIn : (s.resetEvent).resetIn = s.resetIn := rfl
@[simp] theorem State.resetEvent_resets : (s.resetEvent).resets = s.resets + 1 := rfl

@[simp] theorem State.emitHead_fb (x : Txn) (rest : List Txn) : (s.emitHead x rest).fb = s.fb := rfl
@[simp] theorem State.emitHead_alloc (x : Txn) (rest : List Txn) : (s.emitHead x rest).alloc = s.alloc := rfl
@[simp] theorem State.emitHead_faulted (x : Txn) (rest : List Txn) : (s.emitHead x rest).faulted = s.faulted := rfl
@[simp] theorem State.emitHead_cause (x : Txn) (rest : List Txn) : (s.emitHead x rest).cause = s.cause := rfl
@[simp] theorem State.emitHead_faultReq (x : Txn) (rest : List Txn) : (s.emitHead x rest).faultReq = s.faultReq := rfl
@[simp] theorem State.emitHead_txq (x : Txn) (rest : List Txn) : (s.emitHead x rest).txq = rest := rfl
@[simp] theorem State.emitHead_trace (x : Txn) (rest : List Txn) : (s.emitHead x rest).trace = s.trace ++ [x] := rfl
@[simp] theorem State.emitHead_port (x : Txn) (rest : List Txn) : (s.emitHead x rest).port = s.port := rfl
@[simp] theorem State.emitHead_responses (x : Txn) (rest : List Txn) : (s.emitHead x rest).responses = s.responses := rfl
@[simp] theorem State.emitHead_allocIn (x : Txn) (rest : List Txn) : (s.emitHead x rest).allocIn = s.allocIn := rfl
@[simp] theorem State.emitHead_draws (x : Txn) (rest : List Txn) : (s.emitHead x rest).draws = s.draws := rfl
@[simp] theorem State.emitHead_resetIn (x : Txn) (rest : List Txn) : (s.emitHead x rest).resetIn = s.resetIn := rfl
@[simp] theorem State.emitHead_resets (x : Txn) (rest : List Txn) : (s.emitHead x rest).resets = s.resets := rfl

@[simp] theorem State.drain_fb : (s.drain).fb = s.fb := rfl
@[simp] theorem State.drain_alloc : (s.drain).alloc = s.alloc := rfl
@[simp] theorem State.drain_faulted : (s.drain).faulted = s.faulted := rfl
@[simp] theorem State.drain_cause : (s.drain).cause = s.cause := rfl
@[simp] theorem State.drain_faultReq : (s.drain).faultReq = s.faultReq := rfl
@[simp] theorem State.drain_txq : (s.drain).txq = [] := rfl
@[simp] theorem State.drain_trace : (s.drain).trace = s.trace ++ s.txq := rfl
@[simp] theorem State.drain_port : (s.drain).port = s.port := rfl
@[simp] theorem State.drain_responses : (s.drain).responses = s.responses := rfl
@[simp] theorem State.drain_allocIn : (s.drain).allocIn = s.allocIn := rfl
@[simp] theorem State.drain_draws : (s.drain).draws = s.draws := rfl
@[simp] theorem State.drain_resetIn : (s.drain).resetIn = s.resetIn := rfl
@[simp] theorem State.drain_resets : (s.drain).resets = s.resets := rfl

@[simp] theorem State.sampled_fb : (s.sampled).fb = s.fb := rfl
@[simp] theorem State.sampled_alloc : (s.sampled).alloc = s.alloc := rfl
@[simp] theorem State.sampled_faulted : (s.sampled).faulted = s.faulted := rfl
@[simp] theorem State.sampled_cause : (s.sampled).cause = s.cause := rfl
@[simp] theorem State.sampled_faultReq : (s.sampled).faultReq = s.faultReq := rfl
@[simp] theorem State.sampled_txq : (s.sampled).txq = s.txq := rfl
@[simp] theorem State.sampled_trace : (s.sampled).trace = s.trace := rfl
@[simp] theorem State.sampled_port : (s.sampled).port = s.port := rfl
@[simp] theorem State.sampled_responses : (s.sampled).responses = s.responses := rfl
@[simp] theorem State.sampled_allocIn : (s.sampled).allocIn = s.allocIn := rfl
@[simp] theorem State.sampled_draws : (s.sampled).draws = s.draws := rfl
@[simp] theorem State.sampled_resetIn : (s.sampled).resetIn = s.resetIn.tail := rfl
@[simp] theorem State.sampled_resets : (s.sampled).resets = s.resets := rfl
@[simp] theorem State.setPort_fb (ws : List Word) : (s.setPort ws).fb = s.fb := rfl
@[simp] theorem State.setPort_alloc (ws : List Word) : (s.setPort ws).alloc = s.alloc := rfl
@[simp] theorem State.setPort_faulted (ws : List Word) : (s.setPort ws).faulted = s.faulted := rfl
@[simp] theorem State.setPort_cause (ws : List Word) : (s.setPort ws).cause = s.cause := rfl
@[simp] theorem State.setPort_faultReq (ws : List Word) : (s.setPort ws).faultReq = s.faultReq := rfl
@[simp] theorem State.setPort_txq (ws : List Word) : (s.setPort ws).txq = s.txq := rfl
@[simp] theorem State.setPort_trace (ws : List Word) : (s.setPort ws).trace = s.trace := rfl
@[simp] theorem State.setPort_port (ws : List Word) : (s.setPort ws).port = ws := rfl
@[simp] theorem State.setPort_responses (ws : List Word) : (s.setPort ws).responses = s.responses := rfl
@[simp] theorem State.setPort_allocIn (ws : List Word) : (s.setPort ws).allocIn = s.allocIn := rfl
@[simp] theorem State.setPort_draws (ws : List Word) : (s.setPort ws).draws = s.draws := rfl
@[simp] theorem State.setPort_resetIn (ws : List Word) : (s.setPort ws).resetIn = s.resetIn := rfl
@[simp] theorem State.setPort_resets (ws : List Word) : (s.setPort ws).resets = s.resets := rfl

end Sys2Proof.Machine
end

