-- ==== Sys2Proof/Laws/Memory.lean ====
section
/-! SUPPORT. What reading after writing gives, and that every framebuffer operation keeps the canonical form. -/

namespace Sys2Proof.Machine

@[simp] theorem Memory.read_nil (i : Nat) : Memory.read [] i = none := rfl

theorem Memory.read_cons (a : Nat) (b : Byte) (m : Memory) (i : Nat) :
    Memory.read ((a, b) :: m) i = if a = i then some b else Memory.read m i := rfl

/-- A list whose indices all exceed `i` reads nothing at `i`. -/
theorem Memory.read_eq_none_of_lt {m : Memory} {i : Nat} (h : ∀ c ∈ m, i < c.1) : Memory.read m i = none := by
  induction m with
  | nil => rfl
  | cons c m ih =>
    have hc := h c (by simp)
    rw [Memory.read_cons, if_neg (by omega), ih (fun d hd => h d (by simp [hd]))]

/-- Read after write: the written byte there, every other byte as before. -/
theorem Memory.read_write (m : Memory) (i j : Nat) (v : Byte) :
    Memory.read (Memory.write m i v) j = if j = i then some v else Memory.read m j := by
  induction m with
  | nil => simp [Memory.write, Memory.read, eq_comm]
  | cons c m ih =>
    obtain ⟨a, b⟩ := c
    simp only [Memory.write]
    split
    · simp only [Memory.read_cons, eq_comm]
    · split
      · subst_vars
        simp only [Memory.read_cons, eq_comm]
        split <;> rfl
      · rw [Memory.read_cons, ih, Memory.read_cons]
        have : i ≠ a := ‹_›
        split <;> split <;> simp_all

/-- An index listed after a write is the written one or was listed before. -/
theorem Memory.mem_write {m : Memory} {i : Nat} {v : Byte} {c : Host.Cell} (h : c ∈ Memory.write m i v) :
    c = (i, v) ∨ c ∈ m := by
  induction m with
  | nil => simpa [Memory.write] using h
  | cons d m ih =>
    obtain ⟨a, b⟩ := d
    simp only [Memory.write] at h
    split at h
    · simpa using h
    · split at h
      · rcases List.mem_cons.1 h with h | h <;> simp [h]
      · rcases List.mem_cons.1 h with h | h
        · simp [h]
        · rcases ih h with h | h <;> simp [h]

theorem Memory.pairwise_write {m : Memory} (i : Nat) (v : Byte) (h : m.Pairwise (fun c d => c.1 < d.1)) :
    (Memory.write m i v).Pairwise (fun c d => c.1 < d.1) := by
  induction m with
  | nil => simp [Memory.write]
  | cons c m ih =>
    obtain ⟨a, b⟩ := c
    obtain ⟨ha, hm⟩ := List.pairwise_cons.1 h
    simp only [Memory.write]
    split
    · refine List.pairwise_cons.2 ⟨fun d hd => ?_, h⟩
      rcases List.mem_cons.1 hd with rfl | hd
      · assumption
      · exact Nat.lt_trans ‹_› (ha d hd)
    · split
      · subst_vars; exact List.pairwise_cons.2 ⟨ha, hm⟩
      · refine List.pairwise_cons.2 ⟨fun d hd => ?_, ih hm⟩
        rcases Memory.mem_write hd with rfl | hd
        · show a < i; omega
        · exact ha d hd

theorem Memory.wf_iff (m : Memory) :
    Memory.wf m = true ↔ m.Pairwise (fun c d => c.1 < d.1) ∧ ∀ c ∈ m, c.1 < Config.fbBytes := by
  simp [Memory.wf]

/-- A write inside the framebuffer keeps the canonical form. -/
theorem Memory.wf_write {m : Memory} {i : Nat} (v : Byte) (h : Memory.wf m = true) (hi : i < Config.fbBytes) :
    Memory.wf (Memory.write m i v) = true := by
  rw [Memory.wf_iff] at *
  refine ⟨Memory.pairwise_write i v h.1, fun c hc => ?_⟩
  rcases Memory.mem_write hc with rfl | hc
  · exact hi
  · exact h.2 c hc

@[simp] theorem Memory.wf_nil : Memory.wf [] = true := rfl

/-- A whole-framebuffer fill is in canonical form. -/
@[simp] theorem Memory.wf_fill (v : Byte) : Memory.wf (Memory.fill v) = true := by
  rw [Memory.wf_iff]
  refine ⟨List.pairwise_map.2 List.pairwise_lt_range', fun c hc => ?_⟩
  obtain ⟨i, hi, rfl⟩ := List.mem_map.1 hc
  simpa using hi

theorem Memory.read_map_of_mem {f : Nat → Byte} (l : List Nat) (i : Nat) :
    Memory.read (l.map fun k => (k, f k)) i = if i ∈ l then some (f i) else none := by
  induction l with
  | nil => rfl
  | cons a l ih =>
    rw [List.map_cons, Memory.read_cons, ih]
    by_cases h : a = i
    · simp [h]
    · simp [h, Ne.symm h]

/-- A filled framebuffer holds the byte at every framebuffer index and nothing elsewhere. -/
theorem Memory.read_fill (v : Byte) (i : Nat) :
    Memory.read (Memory.fill v) i = if i < Config.fbBytes then some v else none := by
  rw [Memory.fill, Memory.read_map_of_mem (f := fun _ => v)]
  simp

/-! ### The same, as the state reads its framebuffer -/

theorem State.fbByte_fbWrite (s : State) (i j : Nat) (v : Byte) :
    (s.fbWrite i v).fbByte j = if j = i then v else s.fbByte j := by
  simp only [State.fbByte, State.fbWrite_fb, State.fbWrite_resets, Memory.read_write]
  split <;> rfl

theorem State.fbByte_fbFill (s : State) (i : Nat) (v : Byte) (h : i < Config.fbBytes) :
    (s.fbFill v).fbByte i = v := by
  simp [State.fbByte, Memory.read_fill, h]

/-- Framebuffer reads depend on the list and the reset count alone. -/
theorem State.fbByte_congr {s t : State} (hf : s.fb = t.fb) (hr : s.resets = t.resets) : s.fbByte = t.fbByte := by
  funext i; simp [State.fbByte, hf, hr]

/-- A written byte does not depend on what reset left. -/
theorem State.fbByte_of_written {s : State} {i : Nat} {v : Byte} (h : Memory.read s.fb i = some v) :
    s.fbByte i = v := by simp [State.fbByte, h]

end Sys2Proof.Machine
end

