-- ==== Sys2Proof/Laws/Operands.lean ====
section
/-! SUPPORT. Coordinates, the pixel mux and the row remap, bit by bit. -/

namespace Sys2Proof.Machine

/-- Sign extension does not change a coordinate's value (30 R65). -/
@[simp] theorem coord_eq_toInt (v : BitVec 16) : coord v = v.toInt := by
  simp [coord, BitVec.toInt_signExtend_of_le]

/-- The bounds check as claims spell it. -/
theorem inBounds_iff (x y : BitVec 16) : inBounds (coord x) (coord y) = true ↔ OnScreen x y := by
  simp [inBounds, OnScreen, Config.width, Config.height, and_assoc]

/-- A non-negative coordinate is its field's value. -/
theorem toNat_of_nonneg {v : BitVec 16} (h : 0 ≤ v.toInt) : (v.toNat : Int) = v.toInt := by
  rw [BitVec.toInt_eq_toNat_cond] at *
  split at h <;> split <;> omega

theorem OnScreen.x_lt {x y : BitVec 16} (h : OnScreen x y) : x.toNat < 106 := by
  have := toNat_of_nonneg h.1.1
  have := h.1.2
  omega

theorem OnScreen.y_lt {x y : BitVec 16} (h : OnScreen x y) : y.toNat < 65 := by
  have := toNat_of_nonneg h.2.1
  have := h.2.2
  omega

/-- The nine line addresses are 0x40 to 0x48 (41 R142). -/
theorem lineAddr_toNat {l : Nat} (h : l < 9) : (Config.lineAddr l).toNat = 0x40 + l := by
  simp only [Config.lineAddr, BitVec.toNat_ofNat]
  omega

/-- A pixel's byte is a framebuffer byte (40 R103). -/
theorem pixelIndex_lt {x y : Nat} (hx : x < 106) (hy : y < 65) : pixelIndex x y < Config.fbBytes := by
  simp only [pixelIndex, band, Config.width, Config.fbBytes]
  omega

/-- A remap byte's top seven bits are the current band's low seven, its low bit the next band's top (41 R144). -/
theorem getLsbD_remapByte (cur nxt : Byte) (b : Nat) (hb : b < 8) :
    (remapByte cur nxt).getLsbD b = if b = 0 then nxt.getLsbD 7 else cur.getLsbD (b - 1) := by
  have hb' : b = 0 ∨ b = 1 ∨ b = 2 ∨ b = 3 ∨ b = 4 ∨ b = 5 ∨ b = 6 ∨ b = 7 := by omega
  rcases hb' with rfl | rfl | rfl | rfl | rfl | rfl | rfl | rfl <;>
    simp [remapByte]

/-- A top-line byte keeps bit 7 alone (41 R143). -/
theorem getLsbD_topByte (v : Byte) (b : Nat) (hb : b < 8) :
    (topByte v).getLsbD b = (decide (b = 7) && v.getLsbD 7) := by
  have hb' : b = 0 ∨ b = 1 ∨ b = 2 ∨ b = 3 ∨ b = 4 ∨ b = 5 ∨ b = 6 ∨ b = 7 := by omega
  rcases hb' with rfl | rfl | rfl | rfl | rfl | rfl | rfl | rfl <;> simp [topByte]

@[simp] theorem topLine_length (fb : Nat → Byte) : (topLine fb).length = 106 := by simp [topLine]

@[simp] theorem remapLine_length (fb : Nat → Byte) (l : Nat) : (remapLine fb l).length = 106 := by simp [remapLine]

theorem topLine_getElem? (fb : Nat → Byte) (x : Nat) (hx : x < 106) : (topLine fb)[x]? = some (topByte (fb x)) := by
  simp [topLine, hx]

theorem remapLine_getElem? (fb : Nat → Byte) (l x : Nat) (hx : x < 106) :
    (remapLine fb l)[x]? = some (remapByte (fb (x + l * 106)) (fb (x + (l + 1) * 106))) := by
  simp [remapLine, hx]

end Sys2Proof.Machine
end

