-- ==== Sys2Proof/Laws/PerInstr.lean ====
section
/-! SUPPORT. One family of statements over all requests: a header's `OP` field is the request's number (30 R71). -/

namespace Sys2Proof.Laws.OpcodeByte

/-- The encoder puts the opcode map's number in bits 63:56. -/
def Statement (i : Instr) : Prop := opField (header i) = opcode i

/-- Bits 63:56 of `op << 56 | v`, for an operand part `v` that stays below bit 56. -/
theorem opField_or (op : Byte) {v : Word} (hv : ∀ b, 56 ≤ b → v.getLsbD b = false) :
    opField (op.setWidth 64 <<< 56 ||| v) = op := by
  ext b hb
  have h : 56 + b < 64 ∧ b < 64 := by omega
  have hvb : v[56 + b] = false := by rw [← BitVec.getLsbD_eq_getElem]; exact hv _ (by omega)
  simp [opField, field, hb, h, hvb]

theorem high_setWidth {n : Nat} (v : BitVec n) (h : n ≤ 16) (b : Nat) (hb : 56 ≤ b) :
    (v.setWidth 64).getLsbD b = false := by
  simp [BitVec.getLsbD_of_ge v b (by omega)]

theorem high_shift (v : BitVec 16) (b : Nat) (hb : 56 ≤ b) : (v.setWidth 64 <<< 16).getLsbD b = false := by
  simp [BitVec.getLsbD_of_ge v (b - 16) (by omega)]

/-- The three pixel headers. -/
theorem opField_pixel (mode : BitVec 2) (x y : BitVec 16) :
    opField (0x02#64 <<< 56 ||| mode.setWidth 64 <<< 32 ||| y.setWidth 64 <<< 16 ||| x.setWidth 64) = 0x02 := by
  rw [BitVec.or_assoc, BitVec.or_assoc]
  refine opField_or 0x02 fun b hb => ?_
  rw [BitVec.getLsbD_or, BitVec.getLsbD_or, high_shift y b hb, high_setWidth x (by omega) b hb]
  simp [BitVec.getLsbD_of_ge mode (b - 32) (by omega)]

theorem init : Statement .init := by unfold Statement; decide

theorem pclr (x y : BitVec 16) : Statement (.pclr x y) := opField_pixel 0b00 x y

theorem pset (x y : BitVec 16) : Statement (.pset x y) := opField_pixel 0b01 x y

theorem pinv (x y : BitVec 16) : Statement (.pinv x y) := opField_pixel 0b10 x y

theorem fill (color : BitVec 16) : Statement (.fill color) := opField_or 0x03 (high_setWidth color (by omega))

theorem clear : Statement .clear := by unfold Statement; decide

theorem flush : Statement .flush := by unfold Statement; decide

theorem fclear : Statement .fclear := by unfold Statement; decide

theorem cmd (byte : Byte) : Statement (.cmd byte) := opField_or 0x07 (high_setWidth byte (by omega))

theorem cmdl (bytes : List Byte) : Statement (.cmdl bytes) := opField_or 0x08 (high_setWidth _ (by omega))

theorem rawrd (index : BitVec 16) : Statement (.rawrd index) := opField_or 0x09 (high_setWidth index (by omega))

theorem rawwr (index : BitVec 16) (value : Byte) : Statement (.rawwr index value) := by
  unfold Statement
  rw [header, BitVec.or_assoc]
  refine opField_or 0x0A fun b hb => ?_
  rw [BitVec.getLsbD_or, high_setWidth index (by omega) b hb]
  simp [BitVec.getLsbD_of_ge value (b - 16) (by omega)]

theorem width : Statement .width := by unfold Statement; decide

theorem height : Statement .height := by unfold Statement; decide

end Sys2Proof.Laws.OpcodeByte
end

