-- ==== Sys2Proof/Laws/Step.lean ====
section
/-! SUPPORT. One inversion lemma for each shared operation, for `exec` and for `step`: everything each can answer. -/

namespace Sys2Proof.Machine

/-- The allocation check answers its body's answer, or the fault of 60 R200. -/
theorem whenAllocated_next {i : Instr} {s t : State} {body : Result} (h : whenAllocated i s body = .next t) :
    (s.alloc = true ∧ body = .next t) ∨ (s.alloc = false ∧ t = s.raiseFault .notInitialized (header i)) := by
  cases ha : s.alloc <;> simp only [whenAllocated, ha, if_true, Bool.false_eq_true, if_false] at h
  · exact .inr ⟨rfl, by simpa using h.symm⟩
  · exact .inl ⟨rfl, h⟩

theorem whenAllocated_of_alloc {i : Instr} {s : State} (body : Result) (h : s.alloc = true) :
    whenAllocated i s body = body := if_pos h

theorem whenAllocated_of_not_alloc {i : Instr} {s : State} (body : Result) (h : s.alloc = false) :
    whenAllocated i s body = .next (s.raiseFault .notInitialized (header i)) := by simp [whenAllocated, h]

/-- The range check answers its body's answer, or the fault of 60 R200. -/
theorem whenInRange_next {i : Instr} {index : BitVec 16} {s t : State} {body : Result}
    (h : whenInRange i index s body = .next t) :
    (index.toNat < Config.fbBytes ∧ body = .next t) ∨
    (Config.fbBytes ≤ index.toNat ∧ t = s.raiseFault .rawIndexRange (header i)) := by
  unfold whenInRange at h
  split at h
  · exact .inl ⟨‹_›, h⟩
  · exact .inr ⟨by omega, by simpa using h.symm⟩

theorem whenInRange_of_lt {i : Instr} {index : BitVec 16} {s : State} (body : Result)
    (h : index.toNat < Config.fbBytes) : whenInRange i index s body = body := if_pos h

theorem whenInRange_of_le {i : Instr} {index : BitVec 16} {s : State} (body : Result)
    (h : Config.fbBytes ≤ index.toNat) :
    whenInRange i index s body = .next (s.raiseFault .rawIndexRange (header i)) := if_neg (by omega)

/-- In bounds, a pixel update writes one framebuffer byte. -/
theorem State.updatePixel_of_onScreen (s : State) {x y : BitVec 16} (f : Byte → Byte → Byte) (h : OnScreen x y) :
    s.updatePixel x y f =
      s.fbWrite (pixelIndex x.toNat y.toNat) (f (s.fbByte (pixelIndex x.toNat y.toNat)) (mask y.toNat)) := by
  rw [State.updatePixel, if_pos ((inBounds_iff x y).2 h)]

/-- Out of bounds, it changes nothing (40 R100). -/
theorem State.updatePixel_of_not_onScreen (s : State) {x y : BitVec 16} (f : Byte → Byte → Byte)
    (h : ¬OnScreen x y) : s.updatePixel x y f = s := by
  rw [State.updatePixel, if_neg (fun hb => h ((inBounds_iff x y).1 hb))]

/-- Everything a decoded request can leave the block in. -/
inductive Issued (i : Instr) (s : State) : State → Prop where
  | initialized (hi : i = .init) : Issued i s s.initialized
  | notInitialized (ha : s.alloc = false) (hi : i ≠ .init) : Issued i s (s.raiseFault .notInitialized (header i))
  | outOfRange (index : BitVec 16) (ha : s.alloc = true) (hi : i = .rawrd index ∨ ∃ v, i = .rawwr index v)
      (hr : Config.fbBytes ≤ index.toNat) : Issued i s (s.raiseFault .rawIndexRange (header i))
  | wrote (k : Nat) (v : Byte) (ha : s.alloc = true) (hk : k < Config.fbBytes) (hi : i ≠ .init) :
      Issued i s ((s.fbWrite k v).respond none)
  | filled (v : Byte) (ha : s.alloc = true) (hi : i ≠ .init) : Issued i s ((s.fbFill v).respond none)
  | answered (r : Option Byte) (ha : s.alloc = true) (hi : i ≠ .init) : Issued i s (s.respond r)
  | flushed (ha : s.alloc = true) (hi : i = .flush) :
      Issued i s ((s.emit (flushTxns Config.params s.fbByte)).respond none)
  | blanked (ha : s.alloc = true) (hi : i = .fclear) :
      Issued i s ((s.emit (fclearTxns Config.params)).respond none)
  | commanded (bs : List Byte) (ha : s.alloc = true) (hi : (∃ b, i = .cmd b ∧ bs = [b]) ∨ i = .cmdl bs) :
      Issued i s ((s.emit [commandTxn bs]).respond none)

/-- A pixel request's answer. -/
theorem pixel_issued {i : Instr} {s t : State} {x y : BitVec 16} {f : Byte → Byte → Byte} (hi : i ≠ .init)
    (h : whenAllocated i s (.next ((s.updatePixel x y f).respond none)) = .next t) : Issued i s t := by
  rcases whenAllocated_next h with ⟨ha, h⟩ | ⟨ha, rfl⟩
  · obtain rfl := Host.Outcome.next.inj h
    by_cases ho : OnScreen x y
    · rw [s.updatePixel_of_onScreen f ho]
      exact .wrote _ _ ha (pixelIndex_lt ho.x_lt ho.y_lt) hi
    · rw [s.updatePixel_of_not_onScreen f ho]
      exact .answered _ ha hi
  · exact .notInitialized ha hi

/-- Everything `exec` can answer. -/
theorem exec_issued {i : Instr} {s t : State} (h : exec i s = .next t) : Issued i s t := by
  cases i with
  | init => obtain rfl := Host.Outcome.next.inj h; exact .initialized rfl
  | pclr x y => exact pixel_issued (by simp) h
  | pset x y => exact pixel_issued (by simp) h
  | pinv x y => exact pixel_issued (by simp) h
  | fill c =>
    rcases whenAllocated_next h with ⟨ha, h⟩ | ⟨ha, rfl⟩
    · obtain rfl := Host.Outcome.next.inj h; exact .filled _ ha (by simp)
    · exact .notInitialized ha (by simp)
  | clear =>
    rcases whenAllocated_next h with ⟨ha, h⟩ | ⟨ha, rfl⟩
    · obtain rfl := Host.Outcome.next.inj h; exact .filled _ ha (by simp)
    · exact .notInitialized ha (by simp)
  | flush =>
    rcases whenAllocated_next h with ⟨ha, h⟩ | ⟨ha, rfl⟩
    · obtain rfl := Host.Outcome.next.inj h; exact .flushed ha rfl
    · exact .notInitialized ha (by simp)
  | fclear =>
    rcases whenAllocated_next h with ⟨ha, h⟩ | ⟨ha, rfl⟩
    · obtain rfl := Host.Outcome.next.inj h; exact .blanked ha rfl
    · exact .notInitialized ha (by simp)
  | cmd b =>
    rcases whenAllocated_next h with ⟨ha, h⟩ | ⟨ha, rfl⟩
    · obtain rfl := Host.Outcome.next.inj h; exact .commanded [b] ha (.inl ⟨b, rfl, rfl⟩)
    · exact .notInitialized ha (by simp)
  | cmdl bs =>
    rcases whenAllocated_next h with ⟨ha, h⟩ | ⟨ha, rfl⟩
    · obtain rfl := Host.Outcome.next.inj h; exact .commanded bs ha (.inr rfl)
    · exact .notInitialized ha (by simp)
  | rawrd index =>
    rcases whenAllocated_next h with ⟨ha, h⟩ | ⟨ha, rfl⟩
    · rcases whenInRange_next h with ⟨hr, h⟩ | ⟨hr, rfl⟩
      · obtain rfl := Host.Outcome.next.inj h; exact .answered _ ha (by simp)
      · exact .outOfRange index ha (.inl rfl) hr
    · exact .notInitialized ha (by simp)
  | rawwr index v =>
    rcases whenAllocated_next h with ⟨ha, h⟩ | ⟨ha, rfl⟩
    · rcases whenInRange_next h with ⟨hr, h⟩ | ⟨hr, rfl⟩
      · obtain rfl := Host.Outcome.next.inj h; exact .wrote _ _ ha hr (by simp)
      · exact .outOfRange index ha (.inr ⟨v, rfl⟩) hr
    · exact .notInitialized ha (by simp)
  | width =>
    rcases whenAllocated_next h with ⟨ha, h⟩ | ⟨ha, rfl⟩
    · obtain rfl := Host.Outcome.next.inj h; exact .answered _ ha (by simp)
    · exact .notInitialized ha (by simp)
  | height =>
    rcases whenAllocated_next h with ⟨ha, h⟩ | ⟨ha, rfl⟩
    · obtain rfl := Host.Outcome.next.inj h; exact .answered _ ha (by simp)
    · exact .notInitialized ha (by simp)

/-- Everything a step can leave the block in. -/
inductive Stepped (s : State) : State → Prop where
  | reset (h : s.resetIn.head? = some true) : Stepped s s.sampled.resetEvent
  | emitted (x : Txn) (rest : List Txn) (hn : s.NoReset) (hq : s.txq = x :: rest) :
      Stepped s (s.sampled.emitHead x rest)
  | stopped (hn : s.NoReset) (hq : s.txq = []) (hf : s.faulted = true) : Stepped s s.sampled
  | idle (ha : s.Accepting) (hd : decode s.port = .incomplete) : Stepped s s.sampled
  | illegal (why : Illegal) (w : Word) (rest : List Word) (ha : s.Accepting)
      (hd : decode s.port = .illegal why w rest) :
      Stepped s ((s.sampled.setPort rest).raiseFault .illegalRequest w)
  | issued (i : Instr) (rest : List Word) (t : State) (ha : s.Accepting) (hd : decode s.port = .instr i rest)
      (ht : Issued i (s.sampled.setPort rest) t) : Stepped s t

/-- Without a reset sample, a step is the block's own step on the sampled state. -/
theorem step_of_noReset {s : State} (h : s.NoReset) : step s = blockStep s.sampled := by
  unfold step sampledStep
  split
  · next hr => congr 1; cases s; simp_all [State.sampled]
  · next rest hr => simp [State.NoReset, hr] at h
  · next rest hr => rw [State.sampled, hr]; rfl

/-- A reset sample is a reset event. -/
theorem step_of_reset {s : State} (h : s.resetIn.head? = some true) : step s = .next s.sampled.resetEvent := by
  unfold step sampledStep
  split
  · next hr => simp [hr] at h
  · next rest hr => rw [State.sampled, hr]; rfl
  · next rest hr => simp [hr] at h

/-- An accepting block takes the ISSUE step (10 R27). -/
theorem step_of_accepting {s : State} (h : s.Accepting) : step s = issueStep s.sampled := by
  obtain ⟨hn, hq, hf⟩ := h
  rw [step_of_noReset hn]
  simp [blockStep, hq, hf]

/-- A run of one step more begins with the step. -/
theorem run_succ_of_next {s t : State} (k : Nat) (h : step s = .next t) :
    Sys2Proof.core.run (k + 1) s = Sys2Proof.core.run k t := by
  have h' : Sys2Proof.core.step s = .next t := h
  simp only [Host.Core.run, h']

/-- Everything `step` can answer. -/
theorem step_stepped {s t : State} (h : step s = .next t) : Stepped s t := by
  by_cases hr : s.resetIn.head? = some true
  · rw [step_of_reset hr] at h
    obtain rfl := Host.Outcome.next.inj h
    exact .reset hr
  · have hn : s.NoReset := hr
    rw [step_of_noReset hn] at h
    unfold blockStep at h
    split at h
    · next x rest hq =>
      obtain rfl := Host.Outcome.next.inj h
      exact .emitted x rest hn hq
    · next hq =>
      cases hf : s.faulted
      · have ha : s.Accepting := ⟨hn, hq, hf⟩
        rw [if_neg (by simp [hf])] at h
        unfold issueStep at h
        split at h
        · next i rest hd => exact .issued i rest t ha hd (exec_issued h)
        · next why w rest hd =>
          obtain rfl := Host.Outcome.next.inj h
          exact .illegal why w rest ha hd
        · next hd =>
          obtain rfl := Host.Outcome.next.inj h
          exact .idle ha hd
      · rw [if_pos (by simp [hf]), stoppedStep] at h
        split at h
        · simp at h
        · obtain rfl := Host.Outcome.next.inj h
          exact .stopped hn hq hf

end Sys2Proof.Machine
end

