-- ==== Sys2Proof/Tests/Slice0.lean ====
section
/-! SUPPORT. The model's own small tests: words and results taken from the spec's formats and vectors (30 R76, 95 T1 to
T39), and, for every statement with hypotheses, a witness that meets them. -/

namespace Sys2Proof.Tests

open Sys2Proof.Machine

/-- An initialized, idle block with a few bytes written. -/
def ready : State :=
  { State.reset with alloc := true, fb := [(0, 0x40), (106, 0xFF), (109, 0x20), (953, 0x80)] }

/-- The same with these words presented. -/
def presented (ws : List Word) : State := { ready with port := ws }

/-- The same block, faulted. -/
def faultedBlock : State := { ready with faulted := true, cause := 3, faultReq := 0x09000000000003BA }

/-- A test of the next state; a stop fails it. -/
def nextIs (r : Result) (check : State → Bool) : Bool :=
  match r with
  | .next t => check t
  | .fault _ => false
  | .refused _ => false

/-! ### Well-formedness -/

theorem test_wf_cmdl_empty : (Instr.cmdl []).wellFormed = false := by decide
theorem test_wf_cmdl_256 : (Instr.cmdl (List.replicate 256 0)).wellFormed = false := by
  simp only [Instr.wellFormed, List.length_replicate]
  decide
theorem test_wf_cmdl_255 : (Instr.cmdl (List.replicate 255 0)).wellFormed = true := by
  simp only [Instr.wellFormed, List.length_replicate]
  decide

/-! ### Decoding: each word is 30 R76's, or a vector of 95 -/

theorem test_decode_init : decode [0x0100000000000000] = .instr .init [] := by decide
/-- T13, T14, T15: pixel (3, 10). -/
theorem test_decode_pset : decode [0x02000001000A0003] = .instr (.pset 3 10) [] := by decide
theorem test_decode_pclr : decode [0x02000000000A0003] = .instr (.pclr 3 10) [] := by decide
theorem test_decode_pinv : decode [0x02000002000A0003] = .instr (.pinv 3 10) [] := by decide
/-- T12: `pset -1, 3`. -/
theorem test_decode_pset_negative : decode [0x020000010003FFFF] = .instr (.pset (-1) 3) [] := by decide
/-- T20. -/
theorem test_decode_fill : decode [0x0300000000000100] = .instr (.fill 0x100) [] := by decide
theorem test_decode_clear : decode [0x0400000000000000] = .instr .clear [] := by decide
theorem test_decode_flush : decode [0x0500000000000000] = .instr .flush [] := by decide
theorem test_decode_fclear : decode [0x0600000000000000] = .instr .fclear [] := by decide
/-- T31. -/
theorem test_decode_cmd : decode [0x07000000000000AE] = .instr (.cmd 0xAE) [] := by decide
/-- T32: two payload words, and the next request's word left. -/
theorem test_decode_cmdl : decode [0x0800000000000009, 0x0706050403020100, 0x0000000000000008, 0x0400000000000000] =
    .instr (.cmdl [0, 1, 2, 3, 4, 5, 6, 7, 8]) [0x0400000000000000] := by decide
/-- T22. -/
theorem test_decode_rawrd : decode [0x09000000000003B9] = .instr (.rawrd 953) [] := by decide
theorem test_decode_rawwr : decode [0x0A00000000AB0000] = .instr (.rawwr 0 0xAB) [] := by decide
theorem test_decode_width : decode [0x0B00000000000000] = .instr .width [] := by decide
theorem test_decode_height : decode [0x0C00000000000000] = .instr .height [] := by decide

/-- The words of T37, all illegal. -/
def illegalWords : List Word :=
  [0x0000000000000000, 0x0D00000000000000, 0xFF00000000000000, 0x0100000000000001, 0x0200000300000000,
   0x0200000500000000, 0x0280000100000000, 0x0300000000010000, 0x0700000000000100, 0x0A00000001000000,
   0x0B00000000000001]

/-- The block records ILLEGAL_REQUEST for this header. -/
def faultsIllegal (ws : List Word) (w : Word) : Bool :=
  nextIs (step (presented ws)) fun t => t.faulted && t.cause == 1 && t.faultReq == w && t.txq.isEmpty

/-- T37. -/
theorem test_illegal_words : illegalWords.all (fun w => faultsIllegal [w] w) = true := by decide
/-- T33: `N = 0`, a non-zero spare byte, a reserved header bit. -/
theorem test_illegal_cmdl_zero : faultsIllegal [0x0800000000000000] 0x0800000000000000 = true := by decide
theorem test_illegal_cmdl_spare : faultsIllegal [0x0800000000000001, 0x100] 0x0800000000000001 = true := by decide
theorem test_illegal_cmdl_reserved : faultsIllegal [0x0800000000000100] 0x0800000000000100 = true := by decide
/-- A CMDL header alone is not yet a request. -/
theorem test_cmdl_waits : step (presented [0x0800000000000001]) = .next (presented [0x0800000000000001]) := rfl

/-- 30 R76: encodings, written out. -/
theorem test_encode_pclr : encode (.pclr 3 64) = [0x0200000000400003] := by decide
theorem test_encode_cmdl : encode (.cmdl [0xAA, 0xBB, 0xCC]) = [0x0800000000000003, 0x0000000000CCBBAA] := by decide

/-! ### The pixel mux and the remap -/

/-- T10. -/
theorem test_index : [pixelIndex 0 0, pixelIndex 105 0, pixelIndex 0 8, pixelIndex 3 10, pixelIndex 50 37,
    pixelIndex 0 63, pixelIndex 105 64] = [0, 105, 106, 109, 474, 742, 953] := by decide
theorem test_mask : [mask 0, mask 7, mask 10, mask 37, mask 64] = [0x80, 0x01, 0x20, 0x04, 0x80] := by decide
/-- T25. -/
theorem test_remap : [remapByte 0xFF 0x00, remapByte 0x00 0x80, remapByte 0x80 0x7F, remapByte 0x55 0xAA,
    remapByte 0xAA 0x55, remapByte 0xC0 0x80] = [0xFE, 0x01, 0x00, 0xAB, 0x54, 0x81] := by decide
/-- T26. -/
theorem test_top : [topByte 0x7F, topByte 0x80, topByte 0xFF] = [0x00, 0x80, 0x80] := by decide

/-! ### Meanings, one step each -/

/-- 40 R104's example. -/
theorem test_pset : nextIs (exec (.pset 0 0) ready) (fun t => t.fbByte 0 == 0xC0 && t.fbByte 953 == 0x80) = true := by
  decide
/-- 40 R105's example: (0, 15) is band 1, mask 0x01. -/
theorem test_pclr : nextIs (exec (.pclr 0 15) ready) (fun t => t.fbByte 106 == 0xFE && t.fbByte 0 == 0x40) = true := by
  decide
/-- 40 R106's example. -/
theorem test_pinv : nextIs (exec (.pinv 105 64) ready) (fun t => t.fbByte 953 == 0x00) = true := by decide
/-- T12: no effect and no fault. -/
theorem test_pset_outside : exec (.pset (-1) 3) ready = .next (ready.respond none) := rfl
theorem test_pinv_below : exec (.pinv 0 65) ready = .next (ready.respond none) := rfl
/-- T20: any non-zero colour, padding bytes too. -/
theorem test_fill : nextIs (exec (.fill 0x8000) ready) (fun t => t.fbByte 0 == 0xFF && t.fbByte 106 == 0xFF) = true := by
  decide
/-- T21. -/
theorem test_clear : nextIs (exec .clear ready) (fun t => t.fbByte 0 == 0x00 && t.txq.isEmpty) = true := by decide
/-- T22, T23. -/
theorem test_rawrd : nextIs (exec (.rawrd 953) ready) (fun t => t.responses == [some 0x80]) = true := by decide
theorem test_rawrd_range : nextIs (exec (.rawrd 954) ready)
    (fun t => t.status == 0x35 && t.faultReq == 0x09000000000003BA && t.responses.isEmpty) = true := by decide
theorem test_rawwr : nextIs (exec (.rawwr 0 0xAB) ready) (fun t => t.fbByte 0 == 0xAB && t.fbByte 106 == 0xFF) = true := by
  decide
theorem test_rawwr_range : nextIs (exec (.rawwr 0xFFFF 0) ready)
    (fun t => t.cause == 3 && t.faultReq == 0x0A0000000000FFFF && t.fb == ready.fb) = true := by decide
/-- T24. -/
theorem test_width : nextIs (exec .width ready) (fun t => t.responses == [some 0x6A]) = true := by decide
theorem test_height : nextIs (exec .height ready) (fun t => t.responses == [some 0x41]) = true := by decide
/-- T1, T2, T8: column 0 of lines 0x48 and 0x40 for bytes 0xC0 and 0x80, and the count. -/
theorem test_flush : nextIs (exec .flush { ready with fb := [(0, 0xC0), (106, 0x80)] })
    (fun t => t.txq.length == 36 && (t.txq[3]?.map fun x => x.bytes.take 1) == some [0x80] &&
      (t.txq[7]?.map fun x => x.bytes.take 1) == some [0x81]) = true := by decide
/-- T7. -/
theorem test_fclear : nextIs (exec .fclear ready)
    (fun t => t.txq.length == 36 && (t.txq[35]?.map fun x => (x.addr, x.bytes.take 2)) == some (0x3C, [0, 0])) = true := by decide
/-- T31, T32. -/
theorem test_cmd : nextIs (exec (.cmd 0xAE) ready) (fun t => t.txq == [⟨0x3C, [0xAE]⟩]) = true := by decide
theorem test_cmdl : nextIs (exec (.cmdl [0xAA, 0xBB, 0xCC]) ready) (fun t => t.txq == [⟨0x3C, [0xAA, 0xBB, 0xCC]⟩]) = true := by
  decide
/-- T34: a draw of true allocates. -/
theorem test_init_success : nextIs (exec .init { State.reset with allocIn := [true] })
    (fun t => t.alloc && t.fbByte 106 == 0x00 && t.responses == [some 0x01]) = true := by decide
/-- T35: a draw of false changes nothing but the answer and the draw. -/
theorem test_init_failure : exec .init { State.reset with allocIn := [false] } =
    .next { State.reset with draws := 1, responses := [some 0x00] } := rfl

/-! ### Faults, reset, queue -/

/-- T38, by STATUS. -/
theorem test_priority_illegal : nextIs (step { State.reset with port := [0x0D00000000000000] })
    (fun t => t.status == 0x14) = true := by decide
theorem test_priority_not_initialized : nextIs (step { State.reset with port := [0x09000000000003BA] })
    (fun t => t.status == 0x24) = true := by decide
/-- T39: a faulted block accepts nothing; a coming reset clears it. -/
theorem test_stuck : step faultedBlock = .fault .stopped := rfl
theorem test_reset_recovers : nextIs (step { faultedBlock with resetIn := [true] })
    (fun t => t.status == 0x00 && t.faultReq == 0) = true := by decide
/-- 70 R235: while busy a presented request is held and one transaction goes out. -/
theorem test_busy_holds : step { presented [0x0400000000000000] with txq := [⟨0x3C, [1]⟩] } =
    .next { presented [0x0400000000000000] with trace := [⟨0x3C, [1]⟩] } := rfl
/-- 70 R232: reset discards the queue. -/
theorem test_reset_discards_queue : nextIs (step { ready with txq := [⟨0x3C, [1]⟩], resetIn := [true] })
    (fun t => t.txq.isEmpty && t.trace.isEmpty) = true := by decide

/-! ### The host's placement of one request, the reference display, the assembler -/

theorem test_withFetchWord : (State.reset.withFetchWord 64 0x0800000000000009).port =
    [0x0800000000000009, 0, 0] := by decide
theorem test_decodeTableWord : decodeTableWord 64 0x0800000000000009 = some (.cmdl (List.replicate 9 0)) := by decide

/-- Parameters whose set-address frame is the address itself. -/
def plainParams : Config.Params := ⟨[], fun a => ⟨a, []⟩, ⟨0x01, []⟩, ⟨0x02, []⟩, (0, 0)⟩

/-- T30: P1's buffer lights rows 0, 1 and 8 of column 0. -/
theorem test_display : (List.range 10).map (fun r => physical (deliver plainParams (flushTxns plainParams fun i =>
      if i = 0 then 0xC0 else if i = 106 then 0x80 else 0) .unknown) 0 r) =
    [some true, some true, some false, some false, some false, some false, some false, some false, some true,
      some false] := by decide

/-- 30 R76. -/
theorem test_assemble_pset : assembleLine "PSET  -1, 3 ; off screen".toList = some [0x020000010003FFFF] := by decide
theorem test_assemble_cmdl : assembleLine "cmdl 0xAA, 187, 0xcc".toList =
    some [0x0800000000000003, 0x0000000000CCBBAA] := by decide
theorem test_assemble_refuses : assembleLine "cmd 256".toList = none := by decide

/-! ### Witnesses: for each statement with hypotheses, inputs that meet them together -/

theorem accepting_presented (ws : List Word) : (presented ws).Accepting :=
  ⟨by simp [State.NoReset, presented, ready, State.reset], rfl, rfl⟩

theorem noReset_ready : ready.NoReset := by simp [State.NoReset, ready, State.reset]

/-- An initialized block whose framebuffer is complete. -/
def complete : State := { State.reset with alloc := true, fb := Memory.fill 0x5A, port := [0x0400000000000000] }

theorem complete_written (i : Nat) (h : i < Config.fbBytes) : (Memory.read complete.fb i).isSome = true := by
  simp [complete, Memory.read_fill, h]

theorem witness_ResetEventLeavesSpecValues : ({ ready with resetIn := [true] } : State).resetIn.head? = some true := rfl

theorem witness_StepKeepsInvariant : complete.Inv ∧ ∃ t, step complete = .next t :=
  ⟨{ fb_wf := Memory.wf_fill _
     fb_written := fun _ => complete_written
     silent := by simp [complete]
     cause_legal := by simp [complete, State.reset]
     cause_clear := fun _ => ⟨rfl, rfl⟩
     fault_idle := fun _ => rfl
     txns := by simp [complete, State.reset] }, _, rfl⟩

theorem witness_DecodeOfEncodeIsIdentity : (Instr.cmdl [0xFF]).wellFormed = true ∧ (Instr.rawwr 0xFFFF 0xFF).wellFormed = true := by
  decide

theorem witness_EncodeOfDecodeIsIdentity : decode [0x0800000000000001, 0xFF, 0] = .instr (.cmdl [0xFF]) [0] := by decide

theorem witness_IllegalRequestsAreThoseListed :
    IllegalRequest 0x0000000000000000 [] ∧ IllegalRequest 0x0D00000000000000 [] ∧
    IllegalRequest 0x0200000300000000 [] ∧ IllegalRequest 0x0800000000000001 [0x100] ∧
    requestLength 0x0800000000000001 ≤ [0x0800000000000001, (0x100 : Word)].length := by
  refine ⟨.inl (by decide), .inr (.inl (by decide)), ?_, ?_, by decide⟩
  · exact .inr (.inr (.inr (.inl ⟨by decide, .inr (by decide)⟩)))
  · exact .inr (.inr (.inr (.inr (.inr (.inr (.inr
      ⟨by decide, .inr (.inr ⟨by decide, 1, by decide, by decide, by decide⟩)⟩))))))

theorem witness_OpcodeTableRowsAreDisjoint : Instr.wellFormed (.fill 0x8000) = true ∧ opcodeTable.length = 14 := by decide

theorem witness_StepRunsDecodedRequest : (presented [0x0500000000000000]).Accepting ∧
    decode (presented [0x0500000000000000]).port = .instr .flush [] := ⟨accepting_presented _, by decide⟩

theorem witness_StepWaitsForWholeRequest : (presented [0x0800000000000001]).Accepting ∧
    decode (presented [0x0800000000000001]).port = .incomplete := ⟨accepting_presented _, by decide⟩

theorem witness_EmitMovesQueueHeadToTrace :
    (({ faultedBlock with txq := [⟨0x3C, [1]⟩] } : State).NoReset ∧
      ({ faultedBlock with txq := [⟨0x3C, [1]⟩] } : State).txq = ⟨0x3C, [1]⟩ :: []) ∧
    (ready.NoReset ∧ ready.txq = [] ∧ step ready = .next ready) :=
  ⟨⟨noReset_ready, rfl⟩, noReset_ready, rfl, rfl⟩

theorem witness_QueueDrainsInOrder : ({ ready with txq := [⟨0x3C, [1]⟩] } : State).resetIn = [] ∧
    1 ≤ ({ ready with txq := [⟨0x3C, [1]⟩] } : State).txq.length := by decide

theorem witness_IssueThenDrainIsAtomic : (presented [0x0600000000000000]).Accepting ∧
    (presented [0x0600000000000000]).resetIn = [] ∧ decode (presented [0x0600000000000000]).port = .instr .fclear [] :=
  ⟨accepting_presented _, rfl, by decide⟩

theorem witness_TraceIsAppendOnlyAndUnread : ready.NoReset ∧ step ready = .next ready := ⟨noReset_ready, rfl⟩

/-- A block from reset about to run an INIT that succeeds. -/
def initializing : State := { State.reset with port := [0x0100000000000000], allocIn := [true] }

theorem witness_AllocWrittenOnlyByInit : initializing.NoReset ∧ initializing.alloc = false ∧
    nextIs (step initializing) (fun t => t.alloc) = true :=
  ⟨by simp [State.NoReset, initializing, State.reset], rfl, by decide⟩

theorem witness_ResetContentsAreUnobservable :
    SameButResetContents initializing { initializing with resets := 7, fb := [(0, 0xFF)] } ∧
    SameButResetContents complete { complete with resets := 7 } :=
  ⟨⟨rfl, by simp [initializing, State.reset]⟩, rfl, fun _ => ⟨rfl, complete_written⟩⟩

theorem witness_QueuedTransactionsAddressTheDisplay : nextIs (step (presented [0x07000000000000AE]))
    (fun t => t.txq == [⟨0x3C, [0xAE]⟩]) = true := by decide

theorem witness_FaultsArePrecise : (presented [0x0D00000000000000]).Accepting ∧
    nextIs (step (presented [0x0D00000000000000])) (fun t => t.faulted) = true := ⟨accepting_presented _, by decide⟩

theorem witness_FaultsAreSticky :
    (({ faultedBlock with resetIn := [false, true] } : State).NoReset ∧
      nextIs (step { faultedBlock with resetIn := [false, true] }) (fun t => t.faulted) = true) ∧
    (faultedBlock.faulted = true ∧ faultedBlock.txq = [] ∧ faultedBlock.resetIn = []) :=
  ⟨⟨by simp [State.NoReset], by decide⟩, rfl, rfl, rfl⟩

theorem witness_ChecksRunInOrder :
    IllegalRequest 0x0D00000000000000 [] ∧
    (({ State.reset with port := [0x09000000000003BA] } : State).Accepting ∧
      decode [0x09000000000003BA] = .instr (.rawrd 954) []) ∧
    ((presented [0x09000000000003BA]).Accepting ∧ RawOutOfRange (.rawrd 954)) ∧
    ((presented [0x09000000000003B9]).Accepting ∧ ¬RawOutOfRange (.rawrd 953)) := by
  refine ⟨.inr (.inl (by decide)), ⟨⟨by simp [State.NoReset, State.reset], rfl, rfl⟩, by decide⟩,
    ⟨accepting_presented _, 954, .inl rfl, by decide⟩, accepting_presented _, ?_⟩
  rintro ⟨k, hk | ⟨v, hk⟩, hr⟩
  · obtain rfl := Instr.rawrd.inj hk
    exact absurd hr (by decide)
  · simp at hk

theorem witness_OutOfBoundsPixelIsNoOp : ready.alloc = true ∧ ¬OnScreen 106 0 ∧ ¬OnScreen 0 65 ∧ ¬OnScreen (-1) 3 ∧
    ¬OnScreen 0x8000 0x8000 := by decide

theorem witness_PixelMuxSelectsByteAndBit : (64 : Nat) < 65 ∧ (105 : Nat) < 106 := by decide

/-- For PSET, PCLR and PINV alike: in and out of bounds, before INIT, and an illegal word with a reserved bit. -/
theorem witness_PixelRule : (ready.alloc = true ∧ OnScreen 105 64 ∧ ¬OnScreen 106 64) ∧ State.reset.alloc = false ∧
    ((0x0280000100000000 : Word).extractLsb' 56 8 = 0x02 ∧ (0x0280000100000000 : Word).extractLsb' 34 22 ≠ 0 ∧
      (presented [0x0280000100000000]).Accepting) :=
  ⟨by decide, rfl, by decide, by decide, accepting_presented _⟩

theorem witness_PixelAndFillLaws : ready.alloc = true ∧ ready.faulted = false ∧ OnScreen 3 10 ∧ ¬OnScreen 0 65 ∧
    (0x100 : BitVec 16) ≠ 0 := by decide

theorem witness_PixelRequestsAreLocal : ready.alloc = true ∧ OnScreen 0 7 ∧ OnScreen 0 8 ∧
    ((0 : BitVec 16), (7 : BitVec 16)) ≠ (0, 8) ∧ ((0 : BitVec 16), (64 : BitVec 16)) ≠ (0, 65) ∧ pixelIndex 105 64 = pixelIndex 105 64 := by decide

/-- For FILL: an initialized block, one before INIT, and reserved bit 16 set. -/
theorem witness_FillWritesEveryByte : ready.alloc = true ∧ State.reset.alloc = false ∧
    (0x0300000000010000 : Word).extractLsb' 56 8 = 0x03 ∧ (0x0300000000010000 : Word).extractLsb' 16 40 ≠ 0 := by decide

theorem witness_ClearZeroesEveryByte : ready.alloc = true ∧ State.reset.alloc = false ∧
    (0x0400000000000001 : Word).extractLsb' 56 8 = 0x04 ∧ (0x0400000000000001 : Word).extractLsb' 0 56 ≠ 0 := by decide

theorem witness_RawReadRespondsByte : ready.alloc = true ∧ (953 : BitVec 16).toNat < 954 ∧ 954 ≤ (954 : BitVec 16).toNat ∧
    State.reset.alloc = false ∧
    (0x0900000000010000 : Word).extractLsb' 56 8 = 0x09 ∧ (0x0900000000010000 : Word).extractLsb' 16 40 ≠ 0 := by decide

theorem witness_RawWriteStoresByte : ready.alloc = true ∧ (953 : BitVec 16).toNat < 954 ∧ 954 ≤ (954 : BitVec 16).toNat ∧
    State.reset.alloc = false ∧
    (0x0A00000001000000 : Word).extractLsb' 56 8 = 0x0A ∧ (0x0A00000001000000 : Word).extractLsb' 24 32 ≠ 0 := by decide

theorem witness_DimensionsRespondConstants : ready.alloc = true ∧ State.reset.alloc = false ∧
    (0x0B00000000000001 : Word).extractLsb' 56 8 = 0x0B ∧ (0x0B00000000000001 : Word).extractLsb' 0 56 ≠ 0 ∧
    (0x0C00000000000001 : Word).extractLsb' 56 8 = 0x0C ∧ (0x0C00000000000001 : Word).extractLsb' 0 56 ≠ 0 := by decide

theorem witness_DrawingRequestsChangeOnlyFb : ready.alloc = true ∧ (∃ j ∈ pixelRequests, ∃ x y, Instr.pinv 3 10 = j x y) ∧
    (∃ c, Instr.fill 1 = .fill c) ∧ (∃ k v, Instr.rawwr 953 0 = .rawwr k v ∧ k.toNat < 954) :=
  ⟨rfl, ⟨.pinv, by simp [pixelRequests], 3, 10, rfl⟩, ⟨1, rfl⟩, 953, 0, rfl, by decide⟩

theorem witness_LineImagesCarryRemappedRows : (7 : Nat) < 8 ∧ (0 : Nat) < 8 := by decide

/-- For FLUSH and FCLEAR: an initialized block, one before INIT, and a reserved bit set. -/
theorem witness_FlushQueuesRemappedLines : ready.alloc = true ∧ State.reset.alloc = false ∧
    (0x0500000000000001 : Word).extractLsb' 56 8 = 0x05 ∧ (0x0500000000000001 : Word).extractLsb' 0 56 ≠ 0 := by decide

theorem witness_FclearQueuesZeroLines : ready.alloc = true ∧ State.reset.alloc = false ∧
    (0x0600000000000001 : Word).extractLsb' 56 8 = 0x06 ∧ (0x0600000000000001 : Word).extractLsb' 0 56 ≠ 0 := by decide

theorem witness_InitAllocatesZeroesAndConfigures : ready.alloc = true ∧
    (initializing.alloc = false ∧ initializing.allocDraw = true) ∧
    (({ State.reset with allocIn := [false] } : State).alloc = false ∧
      ({ State.reset with allocIn := [false] } : State).allocDraw = false) ∧
    (0x0100000000000001 : Word).extractLsb' 56 8 = 0x01 ∧ (0x0100000000000001 : Word).extractLsb' 0 56 ≠ 0 := by decide

theorem witness_CmdQueuesOneByte : ready.alloc = true ∧ State.reset.alloc = false ∧
    (0x0700000000000100 : Word).extractLsb' 56 8 = 0x07 ∧ (0x0700000000000100 : Word).extractLsb' 8 48 ≠ 0 := by decide

/-- For CMDL: one byte and its zero spare bytes; 255 bytes; a non-zero spare byte; `N = 0`; a reserved bit. -/
theorem witness_CmdlQueuesByteList :
    ((7 + 1) / 8 = [(0xAA : Word)].length ∧ ∀ k, 1 ≤ k → k < 8 → ([(0xAA : Word)].getD (k / 8) 0).extractLsb' (8 * (k % 8)) 8 = 0) ∧
    (1 ≤ (List.replicate 255 (0 : Byte)).length ∧ (List.replicate 255 (0 : Byte)).length ≤ 255 ∧ ready.alloc = true) ∧
    State.reset.alloc = false ∧ (presented [0x0800000000000000]).Accepting ∧
    ([(0x100 : Word)].getD (1 / 8) 0).extractLsb' (8 * (1 % 8)) 8 ≠ 0 ∧
    ((0x0800000000000100 : Word).extractLsb' 56 8 = 0x08 ∧ (0x0800000000000100 : Word).extractLsb' 8 48 ≠ 0) := by
  refine ⟨⟨by decide, ?_⟩, by simp only [List.length_replicate]; decide, rfl, accepting_presented _, by decide, by decide⟩
  intro k h1 h2
  interval_cases k <;> decide

theorem witness_FlushAndFclearCounts : ready.alloc = true ∧ ready.txq = [] := by decide

theorem witness_PaddingBitsAreNeverSent : ∀ k, 848 ≤ k → k < 954 →
    (complete.fbByte k).getLsbD 7 = (({ complete with fb := Memory.fill 0x00 } : State).fbByte k).getLsbD 7 := by
  intro k _ h
  simp [State.fbByte, complete, Memory.read_fill, h]

theorem plainParams_linesDistinct : plainParams.LinesDistinct := by
  intro k l hk hl h
  have h' : Config.lineAddr k = Config.lineAddr l := (Config.Frame.mk.inj h).1
  have := congrArg BitVec.toNat h'
  rw [lineAddr_toNat hk, lineAddr_toNat hl] at this
  omega

theorem witness_FlushShowsTheFramebuffer : plainParams.LinesDistinct ∧ (105 : Nat) < 106 ∧ (64 : Nat) < 65 :=
  ⟨plainParams_linesDistinct, by decide, by decide⟩

theorem witness_FclearBlanksTheDisplay : (8 : Nat) < 9 ∧ (105 : Nat) < 106 ∧ (64 : Nat) < 65 := by decide

theorem witness_NaiveCopyShowsShiftedRows : plainParams.LinesDistinct ∧ (0 : Nat) < 65 ∧ (64 : Nat) < 65 :=
  ⟨plainParams_linesDistinct, by decide, by decide⟩

theorem witness_AssembledLinesDecode : assembleLine "; nothing".toList = some [] ∧
    assembleLine "rawwr 953, 0x01".toList = some [0x0A000000000103B9] := by decide

end Sys2Proof.Tests
end

section
/-! A request the decoder answers has an encoding; for CMDL that means a non-empty byte list (30 R68, R73(c)). -/

namespace Sys2Proof

/-- A format with reserved bits accepts only what it holds. -/
theorem unlessReserved_ok {w : Word} {lo len : Nat} {legal : Except Illegal Instr} {i : Instr}
    (h : unlessReserved w lo len legal = .ok i) : legal = .ok i := by
  unfold unlessReserved at h
  split at h
  · exact h
  · cases h

theorem decodePixel_wellFormed {mode : Nat} {x y : BitVec 16} {i : Instr} (h : decodePixel mode x y = .ok i) :
    i.wellFormed = true := by
  unfold decodePixel at h
  split at h <;> cases h <;> rfl

theorem decodeSingle_wellFormed {w : Word} {i : Instr} (h : decodeSingle w = .ok i) : i.wellFormed = true := by
  unfold decodeSingle at h
  split at h
  -- opcodes 0x02 (format P, with its mode check) and, last, the reserved ones; the rest hold one request each
  case h_2 => exact decodePixel_wellFormed (unlessReserved_ok h)
  case h_12 => cases h
  all_goals
    obtain rfl := Except.ok.inj (unlessReserved_ok h)
    rfl

/-- Format L's count is one byte, and zero is rejected. -/
theorem decodeList_wellFormed {w : Word} {ws rest : List Word} {i : Instr}
    (h : decodeList w ws = .instr i rest) : i.wellFormed = true := by
  have hcount : (field w 0 8).toNat < 256 := (field w 0 8).isLt
  simp only [decodeList] at h
  split at h
  · cases h
  · split at h
    · cases h
    · next hpos =>
      split at h
      · cases h
      · split at h
        · cases h
          simp only [Instr.wellFormed, List.length_map, List.length_range, Bool.and_eq_true, decide_eq_true_eq]
          omega
        · cases h

theorem decode_wellFormed {ws rest : List Word} {i : Instr} (h : decode ws = .instr i rest) :
    i.wellFormed = true := by
  cases ws with
  | nil => cases h
  | cons w ws =>
    simp only [decode] at h
    split at h
    · exact decodeList_wellFormed h
    · split at h
      · next hd => cases h; exact decodeSingle_wellFormed hd
      · cases h

theorem Instr.wellFormed_cmdl {bs : List Byte} (h : (Instr.cmdl bs).wellFormed = true) : bs ≠ [] := by
  rintro rfl
  cases h

end Sys2Proof
end

section
/-! Every transaction the block builds is a non-empty write to the display's bus address (10 R26, 41 R140). -/

namespace Sys2Proof.Machine

/-- A non-empty write to `BUS_ADDR` (00 R4, 10 R26). -/
def Txn.ToDisplay (x : Txn) : Prop := x.addr = 0x3C ∧ x.bytes ≠ []

theorem commandTxn_toDisplay {bs : List Byte} (h : bs ≠ []) : (commandTxn bs).ToDisplay := ⟨rfl, h⟩

theorem dataTxn_toDisplay {bs : List Byte} (h : bs ≠ []) : (dataTxn bs).ToDisplay := ⟨rfl, h⟩

theorem frameTxn_toDisplay (f : Config.Frame) : (commandTxn f.bytes).ToDisplay :=
  commandTxn_toDisplay (List.cons_ne_nil _ _)

theorem asel_toDisplay {p : Config.Params} {a : Byte} : ∀ x ∈ asel p a, x.ToDisplay := by
  simp [asel, frameTxn_toDisplay]

theorem lineWrite_toDisplay {p : Config.Params} {l : Nat} {bs : List Byte} (h : bs ≠ []) :
    ∀ x ∈ lineWrite p l bs, x.ToDisplay := by
  intro x hx
  rcases List.mem_append.1 hx with hx | hx
  · exact asel_toDisplay x hx
  · rw [List.mem_singleton.1 hx]
    exact dataTxn_toDisplay h

theorem flushTxns_toDisplay {p : Config.Params} {fb : Nat → Byte} : ∀ x ∈ flushTxns p fb, x.ToDisplay := by
  have hline {bs : List Byte} (h : bs.length = 106) : bs ≠ [] := List.ne_nil_of_length_pos (by omega)
  intro x hx
  rcases List.mem_append.1 hx with hx | hx
  · exact lineWrite_toDisplay (hline (topLine_length fb)) x hx
  · obtain ⟨l, -, hx⟩ := List.mem_flatMap.1 hx
    exact lineWrite_toDisplay (hline (remapLine_length fb l)) x hx

theorem fclearTxns_toDisplay {p : Config.Params} : ∀ x ∈ fclearTxns p, x.ToDisplay := by
  intro x hx
  obtain ⟨l, -, hx⟩ := List.mem_flatMap.1 hx
  exact lineWrite_toDisplay (List.cons_ne_nil _ _) x hx

theorem initTxns_toDisplay {p : Config.Params} : ∀ x ∈ initTxns p, x.ToDisplay := by
  intro x hx
  obtain ⟨f, -, rfl⟩ := List.mem_map.1 hx
  exact frameTxn_toDisplay f

/-- `t`'s queue holds nothing new but writes to the display. -/
def QueuesToDisplay (s t : State) : Prop := ∀ x ∈ t.txq, x ∈ s.txq ∨ x.ToDisplay

theorem QueuesToDisplay.of_txq_eq {s t : State} (h : t.txq = s.txq) : QueuesToDisplay s t :=
  fun _ hx => .inl (h ▸ hx)

theorem QueuesToDisplay.of_txq_append {s t : State} {ts : List Txn} (h : t.txq = s.txq ++ ts)
    (hts : ∀ x ∈ ts, x.ToDisplay) : QueuesToDisplay s t := by
  intro x hx
  rw [h] at hx
  exact (List.mem_append.1 hx).imp_right (hts x)

/-- INIT queues its configuration frames, or nothing when its draw fails (41 R148). -/
theorem initialized_queuesToDisplay (s : State) : QueuesToDisplay s s.initialized := by
  unfold State.initialized
  split
  · exact .of_txq_append rfl initTxns_toDisplay
  · split
    · exact .of_txq_append rfl initTxns_toDisplay
    · exact .of_txq_eq rfl

/-- The requests that queue something are INIT, FLUSH, FCLEAR, CMD and CMDL. -/
theorem Issued.queuesToDisplay {i : Instr} {s t : State} (h : Issued i s t) (hw : i.wellFormed = true) :
    QueuesToDisplay s t := by
  cases h with
  | initialized => exact initialized_queuesToDisplay s
  | notInitialized | outOfRange | wrote | filled | answered => exact .of_txq_eq rfl
  | flushed => exact .of_txq_append rfl flushTxns_toDisplay
  | blanked => exact .of_txq_append rfl fclearTxns_toDisplay
  | commanded bs _ hi =>
    have hbs : bs ≠ [] := by
      rcases hi with ⟨b, -, rfl⟩ | rfl
      · exact List.cons_ne_nil b []
      · exact Instr.wellFormed_cmdl hw
    exact .of_txq_append rfl (by simpa using commandTxn_toDisplay hbs)

theorem Stepped.queuesToDisplay {s t : State} (h : Stepped s t) : QueuesToDisplay s t := by
  cases h with
  | reset => exact fun x hx => absurd hx List.not_mem_nil
  | emitted x rest _ hq => exact fun y hy => .inl (hq ▸ List.mem_cons_of_mem x hy)
  | stopped | idle | illegal => exact .of_txq_eq rfl
  | issued i rest _ _ hd ht => exact ht.queuesToDisplay (decode_wellFormed hd)

/-- Settles O18: only an issued request adds to the queue, every transaction it builds is a write to the display, and
CMDL's byte list is non-empty because the decoder rejects a zero count. -/
theorem queuedTransactionsAddressTheDisplay : Obligations.QueuedTransactionsAddressTheDisplay :=
  fun _ _ h => (step_stepped h).queuesToDisplay

end Sys2Proof.Machine
end

section
/-! STATUS (10 R30), and what a step does in each of the block's situations: ISSUE, waiting, EMIT, stuck (10 R27,
41 R153, 60 R202). -/

namespace Sys2Proof.Machine

/-! ### STATUS -/

theorem State.busy_eq (s : State) : s.busy = decide (s.txq ≠ []) := by
  cases h : s.txq <;> simp [State.busy, h]

/-- The four fields of STATUS, for every value of what they are computed from (10 R30). -/
theorem status_fields (c : BitVec 4) (f b a : Bool) :
    let v : Byte := c.setWidth 8 <<< 4 ||| (BitVec.ofBool f).setWidth 8 <<< 2 |||
      (BitVec.ofBool b).setWidth 8 <<< 1 ||| (BitVec.ofBool a).setWidth 8
    v.getLsbD 0 = a ∧ v.getLsbD 1 = b ∧ v.getLsbD 2 = f ∧ v.getLsbD 3 = false ∧ v.extractLsb' 4 4 = c := by
  revert c f b a
  decide

/-- Settles O22: each bit of STATUS is the field the rule names. -/
theorem statusViewBits : Obligations.StatusViewBits := by
  refine ⟨fun s => ?_, by decide⟩
  rw [← s.busy_eq]
  exact status_fields s.cause s.faulted s.busy s.alloc

/-! ### The accepting block -/

theorem State.Accepting.txq_eq {s : State} (h : s.Accepting) : s.txq = [] := h.2.1

theorem State.Accepting.faulted_eq {s : State} (h : s.Accepting) : s.faulted = false := h.2.2

/-- Settles O10: an accepting block issues, and ISSUE of a legal request runs its meaning. -/
theorem stepRunsDecodedRequest : Obligations.StepRunsDecodedRequest := by
  intro s i rest ha hd
  rw [step_of_accepting ha, issueStep, State.sampled_port, hd]

/-- Settles O11: an accepting block issues, and ISSUE with no whole request leaves the state. -/
theorem stepWaitsForWholeRequest : Obligations.StepWaitsForWholeRequest := by
  intro s ha hd
  rw [step_of_accepting ha, issueStep, State.sampled_port, hd]

/-! ### EMIT -/

/-- A queued transaction is emitted, whatever else the state holds (41 R153). -/
theorem step_of_queued {s : State} {x : Txn} {rest : List Txn} (hn : s.NoReset) (hq : s.txq = x :: rest) :
    step s = .next (s.sampled.emitHead x rest) := by
  rw [step_of_noReset hn, blockStep, State.sampled_txq, hq]

@[simp] theorem State.initialized_trace (s : State) : s.initialized.trace = s.trace := by
  unfold State.initialized
  split
  · rfl
  · split <;> rfl

/-- No request writes TRACE: it queues (10 R33). -/
theorem Issued.trace_eq {i : Instr} {s t : State} (h : Issued i s t) : t.trace = s.trace := by
  cases h with
  | initialized => exact s.initialized_trace
  | notInitialized | outOfRange | wrote | filled | answered | flushed | blanked | commanded => rfl

/-- What a step without reset does to TRACE: it takes the queue's head if there is one, and nothing else. -/
theorem Stepped.trace_cases {s t : State} (h : Stepped s t) (hn : s.NoReset) :
    (∃ x rest, s.txq = x :: rest ∧ t.trace = s.trace ++ [x]) ∨ (s.txq = [] ∧ t.trace = s.trace) := by
  cases h with
  | reset hr => exact absurd hr hn
  | emitted x rest _ hq => exact .inl ⟨x, rest, hq, rfl⟩
  | stopped _ hq => exact .inr ⟨hq, rfl⟩
  | idle ha | illegal _ _ _ ha => exact .inr ⟨ha.txq_eq, rfl⟩
  | issued i rest _ ha _ ht => exact .inr ⟨ha.txq_eq, ht.trace_eq⟩

/-- Settles O12: EMIT is the step of a block with a queue, and with an empty queue TRACE stays. -/
theorem emitMovesQueueHeadToTrace : Obligations.EmitMovesQueueHeadToTrace := by
  refine ⟨fun s x rest hn hq => step_of_queued hn hq, fun s t hn hq h => ?_⟩
  rcases (step_stepped h).trace_cases hn with ⟨x, rest, hq', -⟩ | ⟨-, ht⟩
  · rw [hq] at hq'
    cases hq'
  · exact ht

/-- Settles O13, by induction on the number of steps: each is an EMIT of the queue's head. -/
theorem queueDrainsInOrder : Obligations.QueueDrainsInOrder := by
  intro s k hr hk
  induction k generalizing s with
  | zero => simp [Host.Core.run]
  | succ k ih =>
    cases hq : s.txq with
    | nil => simp [hq] at hk
    | cons x rest =>
      have hn : s.NoReset := by simp [State.NoReset, hr]
      have hk' : k ≤ rest.length := by simpa [hq] using hk
      rw [run_succ_of_next k (step_of_queued hn hq), ih _ (by simp [hr]) hk']
      simp [State.emitHead, State.sampled, hr]

/-! ### The faulted block -/

/-- A faulted block with nothing to emit and no reset to come is stuck (60 R202). -/
theorem step_of_stuck {s : State} (hf : s.faulted = true) (hq : s.txq = []) (hr : s.resetIn = []) :
    step s = .fault .stopped := by
  have hn : s.NoReset := by simp [State.NoReset, hr]
  rw [step_of_noReset hn, blockStep, State.sampled_txq, hq]
  simp [stoppedStep, hf, hr]

/-- Settles O20: a faulted block's steps are EMIT and standing still, for every other step needs FAULTED = 0. -/
theorem faultsAreSticky : Obligations.FaultsAreSticky := by
  refine ⟨fun s t hf hn h => ?_, fun s hf hq hr => step_of_stuck hf hq hr, fun s hf ⟨_, _, hnf⟩ => ?_⟩
  · have not_accepting (ha : s.Accepting) : False := by simp [ha.faulted_eq] at hf
    cases step_stepped h with
    | reset hr => exact absurd hr hn
    | emitted | stopped => exact ⟨hf, rfl, rfl, rfl, rfl, rfl, rfl⟩
    | idle ha | illegal _ _ _ ha | issued _ _ _ ha => exact (not_accepting ha).elim
  · simp [hnf] at hf

/-! ### ALLOC -/

/-- INIT raises ALLOC exactly when its draw succeeds, and never lowers it (41 R148). -/
theorem State.initialized_alloc (s : State) : s.initialized.alloc = (s.alloc || s.allocDraw) := by
  unfold State.initialized
  split
  · next ha => exact ha.trans (by simp [ha])
  · next ha =>
    split
    · next hd => simp [hd, State.configure]
    · next hd => simp [hd]

/-- A request other than INIT leaves ALLOC. -/
theorem Issued.alloc_eq {i : Instr} {s t : State} (h : Issued i s t) (hi : i ≠ .init) : t.alloc = s.alloc := by
  cases h with
  | initialized hi' => exact absurd hi' hi
  | notInitialized | outOfRange | wrote | filled | answered | flushed | blanked | commanded => rfl

/-- An issued INIT ends where `initialized` says. -/
theorem Issued.eq_initialized {s t : State} (h : Issued .init s t) : t = s.initialized := by
  cases h with
  | initialized => rfl
  | notInitialized | wrote | filled | answered => contradiction
  | outOfRange _ _ hi | commanded _ _ hi => simp at hi
  | flushed _ hi | blanked _ hi => cases hi

/-- A step without reset leaves ALLOC, or is an accepted INIT. -/
theorem Stepped.alloc_cases {s t : State} (h : Stepped s t) (hn : s.NoReset) :
    t.alloc = s.alloc ∨
    (s.Accepting ∧ (∃ rest, decode s.port = .instr .init rest) ∧ t.alloc = (s.alloc || s.allocDraw)) := by
  cases h with
  | reset hr => exact absurd hr hn
  | emitted | stopped | idle | illegal => exact .inl rfl
  | issued i rest _ ha hd ht =>
    by_cases hi : i = .init
    · subst hi
      refine .inr ⟨ha, ⟨rest, hd⟩, ?_⟩
      rw [ht.eq_initialized, State.initialized_alloc]
      rfl
    · exact .inl (ht.alloc_eq hi)

/-- Settles O16: the one step that writes ALLOC is an accepted INIT, and it writes the old value or the draw. -/
theorem allocWrittenOnlyByInit : Obligations.AllocWrittenOnlyByInit := by
  intro s t hn h
  rcases (step_stepped h).alloc_cases hn with ht | ⟨ha, hd, ht⟩
  · exact ⟨fun h1 => ht.trans h1, fun h0 h1 => by simp [ht, h0] at h1⟩
  · exact ⟨fun h1 => by simp [ht, h1], fun h0 h1 => ⟨ha, hd, by simpa [ht, h0] using h1⟩⟩

end Sys2Proof.Machine
end

section
/-! The invariant `State.Inv`: each operation keeps it, so each issued request and each step does. -/

namespace Sys2Proof.Machine

/-- The values of 70 R230 satisfy the invariant. -/
theorem State.Inv.of_reset_values {s : State} (hfb : s.fb = []) (ha : s.alloc = false) (hf : s.faulted = false)
    (hc : s.cause = 0) (hr : s.faultReq = 0) (hq : s.txq = []) (ht : s.trace = []) : s.Inv where
  fb_wf := by rw [hfb]; exact Memory.wf_nil
  fb_written := by simp [ha]
  silent _ := ⟨hq, ht⟩
  cause_legal := by simp [hf]
  cause_clear _ := ⟨hc, hr⟩
  fault_idle _ := hq
  txns := by simp [hq, ht]

/-- Settles O3: reset gives the values of 70 R230. -/
theorem resetMeetsInvariant : Obligations.ResetMeetsInvariant :=
  .of_reset_values rfl rfl rfl rfl rfl rfl rfl

namespace State.Inv

variable {s : State}

theorem resetEvent (s : State) : s.resetEvent.Inv := .of_reset_values rfl rfl rfl rfl rfl rfl rfl

/-! ### Operations that write nothing the invariant speaks of -/

theorem sampled (h : s.Inv) : s.sampled.Inv := { h with }

theorem setPort (h : s.Inv) (rest : List Word) : (s.setPort rest).Inv := { h with }

theorem respond (h : s.Inv) (r : Option Byte) : (s.respond r).Inv := { h with }

theorem takeDraw (h : s.Inv) : s.takeDraw.Inv := { h with }

/-! ### Operations that write what it speaks of -/

/-- A fault is only raised with TXQ empty, so it leaves TXQ empty (41 R153). -/
theorem raiseFault (h : s.Inv) (hq : s.txq = []) (c : Cause) (w : Word) : (s.raiseFault c w).Inv :=
  { h with
    cause_legal := fun _ => by cases c <;> simp [Cause.code]
    cause_clear := by simp
    fault_idle := fun _ => hq }

/-- EMIT needs a non-empty TXQ, so neither ALLOC = 0 nor a fault stands with it. -/
theorem emitHead (h : s.Inv) {x : Txn} {rest : List Txn} (hq : s.txq = x :: rest) : (s.emitHead x rest).Inv :=
  { h with
    silent := fun ha => by simpa [hq] using h.silent ha
    fault_idle := fun hf => by simpa [hq] using h.fault_idle hf
    txns := fun t ht => h.txns t (by
      simp only [State.emitHead_txq, State.emitHead_trace, List.mem_append, List.mem_singleton] at ht
      simp only [hq, List.mem_cons]
      tauto) }

/-- Only an allocated block without a fault queues, and what it queues is written to the display. -/
theorem emit (h : s.Inv) (ha : s.alloc = true) (hf : s.faulted = false) {ts : List Txn}
    (hts : QueuesToDisplay s (s.emit ts)) : (s.emit ts).Inv :=
  { h with
    silent := by simp [ha]
    fault_idle := by simp [hf]
    txns := fun t ht => by
      rcases ht with hq | ht
      · exact (hts t hq).elim (fun hs => h.txns t (.inl hs)) id
      · exact h.txns t (.inr ht) }

theorem fbWrite (h : s.Inv) {k : Nat} (hk : k < Config.fbBytes) (v : Byte) : (s.fbWrite k v).Inv :=
  { h with
    fb_wf := Memory.wf_write v h.fb_wf hk
    fb_written := fun ha i hi => by
      rw [State.fbWrite_fb, Memory.read_write]
      split
      · rfl
      · exact h.fb_written ha i hi }

/-- Filling writes every byte, so the block may be allocated by then (41 R148). -/
theorem setAlloc_fbFill (h : s.Inv) (v : Byte) : (s.setAlloc.fbFill v).Inv :=
  { h with
    fb_wf := Memory.wf_fill v
    fb_written := fun _ i hi => by simp [Memory.read_fill, hi]
    silent := by simp }

end State.Inv

theorem State.setAlloc_of_alloc {s : State} (ha : s.alloc = true) : s.setAlloc = s := by
  rw [State.setAlloc, ← ha]

namespace State.Inv

variable {s : State}

theorem fbFill (h : s.Inv) (ha : s.alloc = true) (v : Byte) : (s.fbFill v).Inv := by
  simpa only [State.setAlloc_of_alloc ha] using h.setAlloc_fbFill v

theorem setAlloc_configure (h : s.Inv) (hf : s.faulted = false) : s.setAlloc.configure.Inv :=
  ((h.setAlloc_fbFill 0x00).emit rfl hf (.of_txq_append rfl initTxns_toDisplay)).respond _

theorem initialized (h : s.Inv) (hf : s.faulted = false) : s.initialized.Inv := by
  unfold State.initialized
  split
  · next ha => simpa only [State.setAlloc_of_alloc ha] using h.setAlloc_configure hf
  · split
    · exact h.takeDraw.setAlloc_configure hf
    · exact h.takeDraw.respond _

/-- What a request issued by an idle block leaves satisfies the invariant. -/
theorem issued {i : Instr} {t : State} (h : s.Inv) (hq : s.txq = []) (hf : s.faulted = false)
    (hw : i.wellFormed = true) (ht : Issued i s t) : t.Inv := by
  have hts : QueuesToDisplay s t := ht.queuesToDisplay hw
  cases ht with
  | initialized => exact h.initialized hf
  | notInitialized | outOfRange => exact h.raiseFault hq _ _
  | wrote k v ha hk => exact (h.fbWrite hk v).respond _
  | filled v ha => exact (h.fbFill ha v).respond _
  | answered r => exact h.respond r
  | flushed ha | blanked ha | commanded _ ha => exact (h.emit ha hf hts).respond _

/-- Everything a step can answer satisfies the invariant. -/
theorem stepped {t : State} (h : s.Inv) (ht : Stepped s t) : t.Inv := by
  cases ht with
  | reset => exact resetEvent _
  | emitted x rest _ hq => exact h.sampled.emitHead hq
  | stopped | idle => exact h.sampled
  | illegal _ w rest ha => exact (h.sampled.setPort rest).raiseFault ha.txq_eq _ w
  | issued i rest _ ha hd ht => exact (h.sampled.setPort rest).issued ha.txq_eq ha.faulted_eq (decode_wellFormed hd) ht

end State.Inv

/-- Settles O4, by the cases of a step. -/
theorem stepKeepsInvariant : Obligations.StepKeepsInvariant :=
  fun _ _ h hs => h.stepped (step_stepped hs)

end Sys2Proof.Machine
end

section
/-! What a request cannot read: what reset left in the framebuffer and the reset count (10 R21), and TRACE (10 R25). A
relation over states that hides only these is kept by every meaning and by the block's own step. -/

namespace Sys2Proof.Machine

/-! ### Two results, related -/

/-- Both answer a next state, and the two are related, or both stop for the same reason. -/
inductive SameOutcome (R : State → State → Prop) : Result → Result → Prop where
  | next {t t' : State} (h : R t t') : SameOutcome R (.next t) (.next t')
  | fault (r : Fault) : SameOutcome R (.fault r) (.fault r)

theorem SameOutcome.of_next {R : State → State → Prop} {r : Result} {t : State} (h : SameOutcome R (.next t) r) :
    ∃ t', r = .next t' ∧ R t t' := by
  cases h with
  | next h => exact ⟨_, rfl, h⟩

theorem SameOutcome.of_fault {R : State → State → Prop} {r : Result} {f : Fault} (h : SameOutcome R (.fault f) r) :
    r = .fault f := by
  cases h with
  | fault => rfl

/-! ### The hidden fields -/

/-- The state with other framebuffer contents, reset count and TRACE. -/
def State.withHidden (s : State) (m : Memory) (r : Nat) (tr : List Txn) : State :=
  { s with fb := m, resets := r, trace := tr }

/-- An operation that neither reads nor writes the hidden fields, and keeps ALLOC. -/
structure Blind (f : State → State) : Prop where
  hidden : ∀ s m r tr, f (s.withHidden m r tr) = (f s).withHidden m r tr
  alloc : ∀ s, (f s).alloc = s.alloc

theorem Blind.eq_withHidden {f : State → State} (hf : Blind f) (s : State) :
    f s = (f s).withHidden s.fb s.resets s.trace :=
  hf.hidden s s.fb s.resets s.trace

theorem Blind.fb {f : State → State} (hf : Blind f) (s : State) : (f s).fb = s.fb := by
  rw [hf.eq_withHidden s]
  rfl

theorem Blind.resets {f : State → State} (hf : Blind f) (s : State) : (f s).resets = s.resets := by
  rw [hf.eq_withHidden s]
  rfl

theorem Blind.trace {f : State → State} (hf : Blind f) (s : State) : (f s).trace = s.trace := by
  rw [hf.eq_withHidden s]
  rfl

theorem blind_sampled : Blind State.sampled := ⟨fun _ _ _ _ => rfl, fun _ => rfl⟩

theorem blind_setPort (rest : List Word) : Blind (·.setPort rest) := ⟨fun _ _ _ _ => rfl, fun _ => rfl⟩

theorem blind_raiseFault (c : Cause) (w : Word) : Blind (·.raiseFault c w) := ⟨fun _ _ _ _ => rfl, fun _ => rfl⟩

theorem blind_emit (ts : List Txn) : Blind (·.emit ts) := ⟨fun _ _ _ _ => rfl, fun _ => rfl⟩

theorem blind_respond (r : Option Byte) : Blind (·.respond r) := ⟨fun _ _ _ _ => rfl, fun _ => rfl⟩

theorem blind_takeDraw : Blind State.takeDraw := ⟨fun _ _ _ _ => rfl, fun _ => rfl⟩

/-! ### FLUSH reads framebuffer bytes only -/

theorem topLine_congr {fb fb' : Nat → Byte} (h : ∀ i, i < Config.fbBytes → fb i = fb' i) :
    topLine fb = topLine fb' := by
  refine List.map_congr_left fun x hx => ?_
  have hx : x < 106 := List.mem_range.1 hx
  rw [h x (show x < 954 by omega)]

theorem remapLine_congr {fb fb' : Nat → Byte} (h : ∀ i, i < Config.fbBytes → fb i = fb' i) {l : Nat} (hl : l < 8) :
    remapLine fb l = remapLine fb' l := by
  refine List.map_congr_left fun x hx => ?_
  have hx : x < 106 := List.mem_range.1 hx
  rw [h (x + l * 106) (show _ < 954 by omega), h (x + (l + 1) * 106) (show _ < 954 by omega)]

theorem flushTxns_congr {p : Config.Params} {fb fb' : Nat → Byte} (h : ∀ i, i < Config.fbBytes → fb i = fb' i) :
    flushTxns p fb = flushTxns p fb' := by
  unfold flushTxns
  rw [topLine_congr h, List.flatMap_congr fun l hl => by rw [remapLine_congr h (List.mem_range.1 hl)]]

/-! ### Relations a request cannot see -/

/-- `R` relates states that agree but for hidden fields, read alike once allocated, and stay related under the block's
operations. -/
structure Unseen (R : State → State → Prop) : Prop where
  hides : ∀ {s s'}, R s s' → ∃ m r tr, s' = s.withHidden m r tr
  reads : ∀ {s s'}, R s s' → s.alloc = true → ∀ i, i < Config.fbBytes → s'.fbByte i = s.fbByte i
  blind : ∀ {f s s'}, Blind f → R s s' → R (f s) (f s')
  emitHead : ∀ {s s'} x rest, R s s' → R (s.emitHead x rest) (s'.emitHead x rest)
  fbWrite : ∀ {s s'} k v, R s s' → R (s.fbWrite k v) (s'.fbWrite k v)
  setAlloc_fbFill : ∀ {s s'} v, R s s' → R (s.setAlloc.fbFill v) (s'.setAlloc.fbFill v)

namespace Unseen

variable {R : State → State → Prop} {s s' : State}

theorem alloc_eq (hR : Unseen R) (h : R s s') : s'.alloc = s.alloc := by
  obtain ⟨m, r, tr, rfl⟩ := hR.hides h; rfl

theorem respond (hR : Unseen R) (h : R s s') (r : Option Byte) : R (s.respond r) (s'.respond r) :=
  hR.blind (blind_respond r) h

theorem emit (hR : Unseen R) (h : R s s') (ts : List Txn) : R (s.emit ts) (s'.emit ts) :=
  hR.blind (blind_emit ts) h

theorem raiseFault (hR : Unseen R) (h : R s s') (c : Cause) (w : Word) : R (s.raiseFault c w) (s'.raiseFault c w) :=
  hR.blind (blind_raiseFault c w) h

theorem fbFill (hR : Unseen R) (h : R s s') (ha : s.alloc = true) (v : Byte) : R (s.fbFill v) (s'.fbFill v) := by
  have ha' : s'.alloc = true := (hR.alloc_eq h).trans ha
  simpa only [State.setAlloc_of_alloc ha, State.setAlloc_of_alloc ha'] using hR.setAlloc_fbFill v h

/-- A pixel update reads one byte of the framebuffer, in bounds. -/
theorem updatePixel (hR : Unseen R) (h : R s s') (ha : s.alloc = true) (x y : BitVec 16) (f : Byte → Byte → Byte) :
    R (s.updatePixel x y f) (s'.updatePixel x y f) := by
  by_cases ho : OnScreen x y
  · rw [s.updatePixel_of_onScreen f ho, s'.updatePixel_of_onScreen f ho,
      hR.reads h ha _ (pixelIndex_lt ho.x_lt ho.y_lt)]
    exact hR.fbWrite _ _ h
  · rw [s.updatePixel_of_not_onScreen f ho, s'.updatePixel_of_not_onScreen f ho]
    exact h

theorem setAlloc_configure (hR : Unseen R) (h : R s s') : R s.setAlloc.configure s'.setAlloc.configure :=
  hR.respond (hR.emit (hR.setAlloc_fbFill 0x00 h) _) _

/-- INIT reads ALLOC and the draw, both alike in related states. -/
theorem initialized (hR : Unseen R) (h : R s s') : R s.initialized s'.initialized := by
  have ha : s'.alloc = s.alloc := hR.alloc_eq h
  have hd : s'.allocDraw = s.allocDraw := by obtain ⟨m, r, tr, rfl⟩ := hR.hides h; rfl
  have ht : R s.takeDraw s'.takeDraw := hR.blind blind_takeDraw h
  unfold State.initialized
  rw [ha, hd]
  split
  · next h1 =>
    simpa only [State.setAlloc_of_alloc h1, State.setAlloc_of_alloc (ha.trans h1)] using hR.setAlloc_configure h
  · split
    · exact hR.setAlloc_configure ht
    · exact hR.respond ht _

/-! ### The checks, the meanings, the block's step -/

theorem whenAllocated (hR : Unseen R) (h : R s s') (i : Instr) {body body' : Result}
    (hb : s.alloc = true → SameOutcome R body body') :
    SameOutcome R (whenAllocated i s body) (whenAllocated i s' body') := by
  unfold Machine.whenAllocated
  rw [hR.alloc_eq h]
  split
  · exact hb ‹_›
  · exact .next (hR.raiseFault h _ _)

theorem whenInRange (hR : Unseen R) (h : R s s') (i : Instr) (index : BitVec 16) {body body' : Result}
    (hb : index.toNat < Config.fbBytes → SameOutcome R body body') :
    SameOutcome R (whenInRange i index s body) (whenInRange i index s' body') := by
  unfold Machine.whenInRange
  split
  · exact hb ‹_›
  · exact .next (hR.raiseFault h _ _)

/-- Every request answers related states alike. -/
theorem exec (hR : Unseen R) (h : R s s') (i : Instr) : SameOutcome R (exec i s) (exec i s') := by
  cases i with
  | init => exact .next (hR.initialized h)
  | pclr x y | pset x y | pinv x y =>
    exact hR.whenAllocated h _ fun ha => .next (hR.respond (hR.updatePixel h ha x y _) _)
  | fill | clear => exact hR.whenAllocated h _ fun ha => .next (hR.respond (hR.fbFill h ha _) _)
  | flush =>
    refine hR.whenAllocated h _ fun ha => ?_
    rw [flushTxns_congr (hR.reads h ha)]
    exact .next (hR.respond (hR.emit h _) _)
  | fclear | cmd | cmdl => exact hR.whenAllocated h _ fun _ => .next (hR.respond (hR.emit h _) _)
  | rawrd index =>
    refine hR.whenAllocated h _ fun ha => hR.whenInRange h _ index fun hi => ?_
    rw [hR.reads h ha _ hi]
    exact .next (hR.respond h _)
  | rawwr index v =>
    exact hR.whenAllocated h _ fun _ => hR.whenInRange h _ index fun _ => .next (hR.respond (hR.fbWrite _ _ h) _)
  | width | height => exact hR.whenAllocated h _ fun _ => .next (hR.respond h _)

theorem issueStep (hR : Unseen R) (h : R s s') : SameOutcome R (issueStep s) (issueStep s') := by
  have hp : s'.port = s.port := by obtain ⟨m, r, tr, rfl⟩ := hR.hides h; rfl
  unfold Machine.issueStep
  rw [hp]
  split
  · next i rest _ => exact hR.exec (hR.blind (blind_setPort rest) h) i
  · next w rest _ => exact .next (hR.raiseFault (hR.blind (blind_setPort rest) h) _ w)
  · exact .next h

theorem stoppedStep (hR : Unseen R) (h : R s s') : SameOutcome R (stoppedStep s) (stoppedStep s') := by
  have hr : s'.resetIn = s.resetIn := by obtain ⟨m, r, tr, rfl⟩ := hR.hides h; rfl
  unfold Machine.stoppedStep
  rw [hr]
  split
  · exact .fault .stopped
  · exact .next h

/-- The block's own step answers related states alike. -/
theorem blockStep (hR : Unseen R) (h : R s s') : SameOutcome R (blockStep s) (blockStep s') := by
  have hq : s'.txq = s.txq := by obtain ⟨m, r, tr, rfl⟩ := hR.hides h; rfl
  have hf : s'.faulted = s.faulted := by obtain ⟨m, r, tr, rfl⟩ := hR.hides h; rfl
  unfold Machine.blockStep
  rw [hq, hf]
  split
  · next x rest _ => exact .next (hR.emitHead x rest h)
  · split
    · exact hR.stoppedStep h
    · exact hR.issueStep h

/-- A step without reset answers related states alike. -/
theorem step (hR : Unseen R) (h : R s s') (hn : s.NoReset) : SameOutcome R (step s) (step s') := by
  have hn' : s'.NoReset := by obtain ⟨m, r, tr, rfl⟩ := hR.hides h; exact hn
  rw [step_of_noReset hn, step_of_noReset hn']
  exact hR.blockStep (hR.blind blind_sampled h)

end Unseen

end Sys2Proof.Machine
end

section
/-! The two things no step can see: the framebuffer contents that reset left, and TRACE. -/

namespace Sys2Proof.Machine

/-! ### Reset's framebuffer contents (10 R21) -/

theorem sameButResetContents_iff (s s' : State) :
    SameButResetContents s s' ↔ ∃ m r, s' = s.withHidden m r s.trace ∧
      (s.alloc = true → m = s.fb ∧ ∀ i, i < 954 → (Memory.read s.fb i).isSome = true) := by
  constructor
  · exact fun ⟨hs, hw⟩ => ⟨s'.fb, s'.resets, hs, hw⟩
  · rintro ⟨m, r, rfl, hw⟩
    exact ⟨rfl, hw⟩

/-- Written bytes read alike, and only written bytes are read. -/
theorem unseen_sameButResetContents : Unseen SameButResetContents where
  hides h := ⟨_, _, _, h.1⟩
  reads {s s'} h ha i hi := by
    obtain ⟨hfb, hw⟩ := h.2 ha
    obtain ⟨v, hv⟩ := Option.isSome_iff_exists.1 (hw i hi)
    rw [State.fbByte_of_written hv, State.fbByte_of_written (hfb ▸ hv)]
  blind {f s s'} hf h := by
    obtain ⟨m, r, rfl, hw⟩ := (sameButResetContents_iff s s').1 h
    refine (sameButResetContents_iff _ _).2 ⟨m, r, ?_, ?_⟩
    · rw [hf.hidden, hf.trace]
    · rwa [hf.alloc, hf.fb]
  emitHead {s s'} x rest h := by
    obtain ⟨m, r, rfl, hw⟩ := (sameButResetContents_iff s s').1 h
    exact ⟨rfl, hw⟩
  fbWrite {s s'} k v h := by
    obtain ⟨m, r, rfl, hw⟩ := (sameButResetContents_iff s s').1 h
    refine ⟨rfl, fun ha => ?_⟩
    obtain ⟨rfl, hs⟩ := hw ha
    refine ⟨rfl, fun i hi => ?_⟩
    rw [State.fbWrite_fb, Memory.read_write]
    split
    · rfl
    · exact hs i hi
  setAlloc_fbFill {s s'} v h := by
    obtain ⟨m, r, rfl, -⟩ := (sameButResetContents_iff s s').1 h
    exact ⟨rfl, fun _ => ⟨rfl, fun i hi => by simp [Memory.read_fill, hi]⟩⟩

/-- A reset event leaves fresh unspecified contents in both. -/
theorem SameButResetContents.resetEvent {s s' : State} (h : SameButResetContents s s') :
    SameButResetContents s.resetEvent s'.resetEvent := by
  obtain ⟨m, r, rfl, -⟩ := (sameButResetContents_iff s s').1 h
  exact ⟨rfl, by simp⟩

theorem SameButResetContents.step {s s' : State} (h : SameButResetContents s s') :
    SameOutcome SameButResetContents (step s) (step s') := by
  by_cases hr : s.resetIn.head? = some true
  · have hr' : s'.resetIn.head? = some true := by rw [h.1]; exact hr
    rw [step_of_reset hr, step_of_reset hr']
    exact .next (unseen_sameButResetContents.blind blind_sampled h).resetEvent
  · exact unseen_sameButResetContents.step h hr

/-- Settles O17: the step answers both states alike, whatever reset left in their framebuffers. -/
theorem resetContentsAreUnobservable : Obligations.ResetContentsAreUnobservable := by
  intro s s' h
  have hs : SameOutcome SameButResetContents (step s) (step s') := h.step
  exact ⟨fun t ht => (ht ▸ hs).of_next, fun hf => (hf ▸ hs).of_fault⟩

/-! ### TRACE (10 R25) -/

/-- `s'` is `s` but for the first `n` transactions of TRACE, in place of which it has `tr`. -/
def SameButTrace (tr : List Txn) (n : Nat) (s s' : State) : Prop :=
  n ≤ s.trace.length ∧ s' = { s with trace := tr ++ s.trace.drop n }

/-- TRACE is read by nothing, and EMIT appends to it. -/
theorem unseen_sameButTrace (tr : List Txn) (n : Nat) : Unseen (SameButTrace tr n) where
  hides h := ⟨_, _, _, h.2⟩
  reads {s s'} h _ i _ := by
    obtain ⟨-, rfl⟩ := h
    exact congrFun (State.fbByte_congr rfl rfl) i
  blind {f s s'} hf h := by
    obtain ⟨hn, rfl⟩ := h
    refine ⟨by rwa [hf.trace], ?_⟩
    calc f (s.withHidden s.fb s.resets (tr ++ s.trace.drop n))
        = (f s).withHidden s.fb s.resets (tr ++ s.trace.drop n) := hf.hidden _ _ _ _
      _ = (f s).withHidden (f s).fb (f s).resets (tr ++ (f s).trace.drop n) := by rw [hf.fb, hf.resets, hf.trace]
  emitHead {s s'} x rest h := by
    obtain ⟨hn, rfl⟩ := h
    refine ⟨by simp; omega, ?_⟩
    simp [State.emitHead, List.drop_append_of_le_length hn]
  fbWrite {s s'} k v h := by
    obtain ⟨hn, rfl⟩ := h
    exact ⟨hn, rfl⟩
  setAlloc_fbFill {s s'} v h := by
    obtain ⟨hn, rfl⟩ := h
    exact ⟨hn, rfl⟩

/-- Settles O15: TRACE grows by the queue's head or not at all, and states that differ in it step alike. -/
theorem traceIsAppendOnlyAndUnread : Obligations.TraceIsAppendOnlyAndUnread := by
  refine ⟨fun s t hn h => ?_, fun s t tr hn h => ?_⟩
  · rcases (step_stepped h).trace_cases hn with ⟨x, rest, hq, ht⟩ | ⟨-, ht⟩
    · exact .inr ⟨x, by simp [hq], ht⟩
    · exact .inl ht
  · have hs : SameButTrace tr s.trace.length s { s with trace := tr } := ⟨le_rfl, by simp⟩
    have hsame := (unseen_sameButTrace tr s.trace.length).step hs hn
    rw [h] at hsame
    obtain ⟨t', ht', -, rfl⟩ := hsame.of_next
    exact ht'

end Sys2Proof.Machine
end

section
/-! An accepted request's ISSUE with the EMITs of what it queued, as one atomic step (41 R154). -/

namespace Sys2Proof.Machine

/-! ### Every request answers a next state -/

/-- The allocation check faults, which is a next state, or answers what its body does. -/
theorem exists_whenAllocated_eq_next (i : Instr) (s : State) {body : Result} (h : ∃ t, body = .next t) :
    ∃ t, whenAllocated i s body = .next t := by
  cases ha : s.alloc with
  | true => simpa only [whenAllocated_of_alloc body ha] using h
  | false => exact ⟨_, whenAllocated_of_not_alloc body ha⟩

/-- So does the range check. -/
theorem exists_whenInRange_eq_next (i : Instr) (index : BitVec 16) (s : State) {body : Result}
    (h : ∃ t, body = .next t) : ∃ t, whenInRange i index s body = .next t := by
  rcases Nat.lt_or_ge index.toNat Config.fbBytes with hlt | hle
  · simpa only [whenInRange_of_lt body hlt] using h
  · exact ⟨_, whenInRange_of_le body hle⟩

/-- No request stops the block: a fault is a next state too (60 R201). -/
theorem exists_exec_eq_next (i : Instr) (s : State) : ∃ t, exec i s = .next t := by
  cases i with
  | init => exact ⟨_, rfl⟩
  | pclr | pset | pinv | fill | clear | flush | fclear | cmd | cmdl | width | height =>
    exact exists_whenAllocated_eq_next _ s ⟨_, rfl⟩
  | rawrd | rawwr => exact exists_whenAllocated_eq_next _ s (exists_whenInRange_eq_next _ _ s ⟨_, rfl⟩)

/-! ### No request touches the reset line -/

@[simp] theorem State.initialized_resetIn (s : State) : s.initialized.resetIn = s.resetIn := by
  unfold State.initialized
  split
  · rfl
  · split <;> rfl

theorem Issued.resetIn_eq {i : Instr} {s t : State} (h : Issued i s t) : t.resetIn = s.resetIn := by
  cases h with
  | initialized => exact s.initialized_resetIn
  | notInitialized | outOfRange | wrote | filled | answered | flushed | blanked | commanded => rfl

/-! ### Draining -/

theorem State.sampled_of_resetIn_nil {s : State} (h : s.resetIn = []) : s.sampled = s := by
  cases s
  cases h
  rfl

/-- With no reset to come, as many steps as TXQ is long move all of it to TRACE. -/
theorem run_txq_length {s : State} (h : s.resetIn = []) :
    Sys2Proof.core.run s.txq.length s = .next s.drain := by
  rw [queueDrainsInOrder s s.txq.length h le_rfl, List.drop_length, List.take_length, State.drain]

/-- Settles O14: the first step is the request's ISSUE, which always answers, and the rest drain what it queued. -/
theorem issueThenDrainIsAtomic : Obligations.IssueThenDrainIsAtomic := by
  intro s i rest ha hr hd
  obtain ⟨t, ht⟩ := exists_exec_eq_next i (s.setPort rest)
  have hstep : step s = .next t := by
    rw [stepRunsDecodedRequest s i rest ha hd, State.sampled_of_resetIn_nil hr, ht]
  have htr : t.resetIn = [] := (exec_issued ht).resetIn_eq.trans hr
  refine ⟨t, ht, ?_⟩
  rw [Nat.add_comm, run_succ_of_next _ hstep, run_txq_length htr]
  rfl

end Sys2Proof.Machine
end

section
/-! FLUSH reads bands 0..7, and of band 8 bit 7 alone: the padding bits stay inside the block (20 R44, 41 R144). -/

namespace Sys2Proof.Machine

/-- A remap byte takes only the top bit of the next band's byte (41 R144). -/
theorem remapByte_congr_right (cur : Byte) {nxt nxt' : Byte} (h : nxt.getLsbD 7 = nxt'.getLsbD 7) :
    remapByte cur nxt = remapByte cur nxt' := by
  refine BitVec.eq_of_getLsbD_eq fun b hb => ?_
  rw [getLsbD_remapByte cur nxt b hb, getLsbD_remapByte cur nxt' b hb, h]

/-- The top line reads band 0 only (41 R145). -/
theorem topLine_congr_of_bands {fb fb' : Nat → Byte} (h : ∀ k, k < 848 → fb k = fb' k) :
    topLine fb = topLine fb' := by
  refine List.map_congr_left fun x hx => ?_
  have hx : x < 106 := List.mem_range.1 hx
  rw [h x (by omega)]

/-- Line `l` reads band `l`, one of bands 0..7, and the top bits of band `l + 1` (41 R145). -/
theorem remapLine_congr_of_bands {fb fb' : Nat → Byte} (h : ∀ k, k < 848 → fb k = fb' k)
    (htop : ∀ k, k < 954 → (fb k).getLsbD 7 = (fb' k).getLsbD 7) {l : Nat} (hl : l < 8) :
    remapLine fb l = remapLine fb' l := by
  refine List.map_congr_left fun x hx => ?_
  have hx : x < 106 := List.mem_range.1 hx
  rw [h (x + l * 106) (by omega), remapByte_congr_right _ (htop (x + (l + 1) * 106) (by omega))]

/-- Settles O44: each of FLUSH's nine lines reads only what the two framebuffers share. -/
theorem paddingBitsAreNeverSent : Obligations.PaddingBitsAreNeverSent := by
  intro s t h hpad
  have htop (k : Nat) (hk : k < 954) : (s.fbByte k).getLsbD 7 = (t.fbByte k).getLsbD 7 := by
    rcases Nat.lt_or_ge k 848 with hlt | hge
    · rw [h k hlt]
    · exact hpad k hge hk
  unfold flushTxns
  rw [topLine_congr_of_bands h,
    List.flatMap_congr fun l hl => by rw [remapLine_congr_of_bands h htop (List.mem_range.1 hl)]]

end Sys2Proof.Machine
end

section
/-! The frame of the drawing requests and RAWWR: the framebuffer and one valueless response (20 R48, 70 R237). -/

namespace Sys2Proof.Machine

theorem State.sameButFb_fbWrite (s : State) (k : Nat) (v : Byte) (r : Option Byte) :
    s.SameButFb ((s.fbWrite k v).respond r) r := rfl

theorem State.sameButFb_fbFill (s : State) (v : Byte) (r : Option Byte) :
    s.SameButFb ((s.fbFill v).respond r) r := rfl

/-- A pixel update writes one byte, or nothing (40 R100). -/
theorem State.sameButFb_updatePixel (s : State) (x y : BitVec 16) (f : Byte → Byte → Byte) (r : Option Byte) :
    s.SameButFb ((s.updatePixel x y f).respond r) r := by
  by_cases ho : OnScreen x y
  · rw [s.updatePixel_of_onScreen f ho]
    exact s.sameButFb_fbWrite _ _ r
  · rw [s.updatePixel_of_not_onScreen f ho]
    rfl

/-- Each pixel request updates its pixel, once allocated. -/
theorem exec_pixel_of_alloc {j : BitVec 16 → BitVec 16 → Instr} (hj : j ∈ pixelRequests) (x y : BitVec 16) {s : State}
    (ha : s.alloc = true) : ∃ f, exec (j x y) s = .next ((s.updatePixel x y f).respond none) := by
  have hj : j = .pset ∨ j = .pclr ∨ j = .pinv := by simpa [pixelRequests] using hj
  rcases hj with rfl | rfl | rfl <;> exact ⟨_, whenAllocated_of_alloc _ ha⟩

/-- Settles O35: a pixel update, a fill and a byte write each change only the framebuffer. -/
theorem drawingRequestsChangeOnlyFb : Obligations.DrawingRequestsChangeOnlyFb := by
  rintro i (⟨j, hj, x, y, rfl⟩ | ⟨c, rfl⟩ | rfl | ⟨k, v, rfl, hk⟩) s ha
  · obtain ⟨f, hf⟩ := exec_pixel_of_alloc hj x y ha
    exact ⟨_, hf, s.sameButFb_updatePixel x y f none⟩
  · exact ⟨_, whenAllocated_of_alloc _ ha, s.sameButFb_fbFill _ none⟩
  · exact ⟨_, whenAllocated_of_alloc _ ha, s.sameButFb_fbFill _ none⟩
  · exact ⟨_, (whenAllocated_of_alloc _ ha).trans (whenInRange_of_lt _ hk), s.sameButFb_fbWrite _ v none⟩

end Sys2Proof.Machine
end

section
/-! Request words as bit fields (30 R60 to R70): a word is one request's header exactly when its fields are that
request's. -/

namespace Sys2Proof

/-! ### Fields -/

theorem getLsbD_field (w : Word) (lo len b : Nat) :
    (field w lo len).getLsbD b = (decide (b < len) && w.getLsbD (lo + b)) :=
  BitVec.getLsbD_extractLsb' ..

/-- A field is a value when its bits are. -/
theorem field_eq_iff {w : Word} {lo len : Nat} {v : BitVec len} :
    field w lo len = v ↔ ∀ b < len, w.getLsbD (lo + b) = v.getLsbD b := by
  rw [BitVec.eq_of_getLsbD_eq_iff]
  exact forall₂_congr fun b hb => by rw [getLsbD_field, decide_eq_true hb, Bool.true_and]

/-- Neighbouring fields read together. -/
theorem field_eq_append_iff {w : Word} {lo m n : Nat} {u : BitVec m} {v : BitVec n} :
    field w lo (m + n) = u ++ v ↔ field w (lo + n) m = u ∧ field w lo n = v := by
  simp only [field_eq_iff, BitVec.getLsbD_append]
  constructor
  · intro h
    constructor
    · intro b hb
      simpa [Nat.add_assoc] using h (n + b) (by omega)
    · intro b hb
      simpa [hb] using h b (by omega)
  · rintro ⟨hu, hv⟩ b hb
    by_cases hbn : b < n
    · simp [hbn, hv b hbn]
    · simpa [hbn, Nat.add_assoc, Nat.add_sub_cancel' (Nat.le_of_not_lt hbn)] using hu (b - n) (by omega)

theorem setWidth_append {m n : Nat} (u : BitVec m) (v : BitVec n) :
    ((u ++ v).setWidth 64 : Word) = u.setWidth 64 <<< n ||| v.setWidth 64 := by
  ext b hb
  by_cases hbn : b < n
  · simp [BitVec.getLsbD_append, hbn]
  · simp [BitVec.getLsbD_append, hbn, BitVec.getLsbD_of_ge v b (Nat.le_of_not_lt hbn)]

/-! ### A header as opcode and operands -/

/-- The header with opcode `op` and the operand bits `v` in its lowest places, every bit between them zero. -/
def opWord (op : Byte) {n : Nat} (v : BitVec n) : Word := op.setWidth 64 <<< 56 ||| v.setWidth 64

theorem getLsbD_opWord (op : Byte) {n : Nat} (v : BitVec n) (hn : n ≤ 56) {b : Nat} (hb : b < 64) :
    (opWord op v).getLsbD b = if 56 ≤ b then op.getLsbD (b - 56) else v.getLsbD b := by
  by_cases h : 56 ≤ b
  · simp [opWord, h, hb, BitVec.getLsbD_of_ge v b (by omega)]
  · simp [opWord, h, hb]

theorem eq_opWord_iff {op : Byte} {n : Nat} {v : BitVec n} (hn : n ≤ 56) {w : Word} :
    w = opWord op v ↔ opField w = op ∧ field w n (56 - n) = 0 ∧ field w 0 n = v := by
  rw [BitVec.eq_of_getLsbD_eq_iff, opField, field_eq_iff, field_eq_iff, field_eq_iff]
  constructor
  · intro h
    refine ⟨fun b hb => ?_, fun b hb => ?_, fun b hb => ?_⟩
    · rw [h _ (by omega), getLsbD_opWord op v hn (by omega), if_pos (by omega), Nat.add_sub_cancel_left]
    · rw [h _ (by omega), getLsbD_opWord op v hn (by omega), if_neg (by omega), BitVec.getLsbD_of_ge v _ (by omega)]
      simp
    · rw [h _ (by omega), getLsbD_opWord op v hn (by omega), if_neg (by omega), Nat.zero_add]
  · rintro ⟨hop, hzero, hv⟩ b hb
    rw [getLsbD_opWord op v hn hb]
    split
    · rw [← hop _ (by omega), Nat.add_sub_cancel' (by assumption)]
    · by_cases hbn : b < n
      · rw [← hv b hbn, Nat.zero_add]
      · rw [BitVec.getLsbD_of_ge v b (by omega), ← Nat.add_sub_cancel' (Nat.le_of_not_lt hbn), hzero _ (by omega)]
        simp

/-- Opcode, mode and coordinates of a pixel request, format P (30 R64). -/
theorem pixel_eq_opWord (mode : BitVec 2) (x y : BitVec 16) :
    (0x02#64 <<< 56 ||| mode.setWidth 64 <<< 32 ||| y.setWidth 64 <<< 16 ||| x.setWidth 64) =
      opWord 0x02 (mode ++ (y ++ x)) := by
  rw [opWord, setWidth_append, setWidth_append, ← BitVec.or_assoc, ← BitVec.or_assoc]
  rfl

theorem header_rawwr_eq_opWord (index : BitVec 16) (value : Byte) :
    header (.rawwr index value) = opWord 0x0A (value ++ index) := by
  rw [opWord, setWidth_append, ← BitVec.or_assoc]
  rfl

/-! ### When a word is a request's header -/

theorem header_eq_opWord_of_plain {i : Instr} (h : header i = (opcode i).setWidth 64 <<< 56) :
    header i = opWord (opcode i) 0#0 := by
  simp [h, opWord]

theorem eq_header_iff_of_plain {i : Instr} {w : Word} (h : header i = (opcode i).setWidth 64 <<< 56) :
    w = header i ↔ opField w = opcode i ∧ field w 0 56 = 0 := by
  rw [header_eq_opWord_of_plain h, eq_opWord_iff (by omega)]
  simp [eq_iff_true_of_subsingleton]

theorem eq_pixel_iff {w : Word} (mode : BitVec 2) (x y : BitVec 16) :
    w = (0x02#64 <<< 56 ||| mode.setWidth 64 <<< 32 ||| y.setWidth 64 <<< 16 ||| x.setWidth 64) ↔
      opField w = 0x02 ∧ field w 34 22 = 0 ∧ field w 32 2 = mode ∧ field w 16 16 = y ∧ field w 0 16 = x := by
  rw [pixel_eq_opWord, eq_opWord_iff (by omega), field_eq_append_iff, field_eq_append_iff]

theorem header_fill_eq_opWord (color : BitVec 16) : header (.fill color) = opWord 0x03 color := rfl

theorem header_cmd_eq_opWord (byte : Byte) : header (.cmd byte) = opWord 0x07 byte := rfl

theorem header_cmdl_eq_opWord (bytes : List Byte) :
    header (.cmdl bytes) = opWord 0x08 (BitVec.ofNat 8 bytes.length) := rfl

theorem header_rawrd_eq_opWord (index : BitVec 16) : header (.rawrd index) = opWord 0x09 index := rfl

theorem eq_header_fill_iff {w : Word} (color : BitVec 16) :
    w = header (.fill color) ↔ opField w = 0x03 ∧ field w 16 40 = 0 ∧ field w 0 16 = color := by
  rw [header_fill_eq_opWord, eq_opWord_iff (by omega)]

theorem eq_header_cmd_iff {w : Word} (byte : Byte) :
    w = header (.cmd byte) ↔ opField w = 0x07 ∧ field w 8 48 = 0 ∧ field w 0 8 = byte := by
  rw [header_cmd_eq_opWord, eq_opWord_iff (by omega)]

theorem eq_header_cmdl_iff {w : Word} (bytes : List Byte) :
    w = header (.cmdl bytes) ↔
      opField w = 0x08 ∧ field w 8 48 = 0 ∧ field w 0 8 = BitVec.ofNat 8 bytes.length := by
  rw [header_cmdl_eq_opWord, eq_opWord_iff (by omega)]

theorem eq_header_rawrd_iff {w : Word} (index : BitVec 16) :
    w = header (.rawrd index) ↔ opField w = 0x09 ∧ field w 16 40 = 0 ∧ field w 0 16 = index := by
  rw [header_rawrd_eq_opWord, eq_opWord_iff (by omega)]

theorem eq_header_rawwr_iff {w : Word} (index : BitVec 16) (value : Byte) :
    w = header (.rawwr index value) ↔
      opField w = 0x0A ∧ field w 24 32 = 0 ∧ field w 16 8 = value ∧ field w 0 16 = index := by
  rw [header_rawwr_eq_opWord, eq_opWord_iff (by omega), field_eq_append_iff]

/-! ### One-word requests, decoded and encoded -/

theorem unlessReserved_eq_ok_iff {w : Word} {lo len : Nat} {legal : Except Illegal Instr} {i : Instr} :
    unlessReserved w lo len legal = .ok i ↔ field w lo len = 0 ∧ legal = .ok i := by
  unfold unlessReserved
  split <;> simp_all

theorem decodePixel_eq_ok {m : BitVec 2} {x y : BitVec 16} {i : Instr} (h : decodePixel m.toNat x y = .ok i) :
    (m = 0 ∧ i = .pclr x y) ∨ (m = 1 ∧ i = .pset x y) ∨ (m = 2 ∧ i = .pinv x y) := by
  unfold decodePixel at h
  split at h <;> cases h
  case h_1 hm => exact .inl ⟨BitVec.eq_of_toNat_eq hm, rfl⟩
  case h_2 hm => exact .inr (.inl ⟨BitVec.eq_of_toNat_eq hm, rfl⟩)
  case h_3 hm => exact .inr (.inr ⟨BitVec.eq_of_toNat_eq hm, rfl⟩)

/-- Format P: the mode alone is left to check. -/
theorem decodeSingle_pixel (mode : BitVec 2) (x y : BitVec 16) :
    decodeSingle (0x02#64 <<< 56 ||| mode.setWidth 64 <<< 32 ||| y.setWidth 64 <<< 16 ||| x.setWidth 64) =
      decodePixel mode.toNat x y := by
  generalize hw : 0x02#64 <<< 56 ||| mode.setWidth 64 <<< 32 ||| y.setWidth 64 <<< 16 ||| x.setWidth 64 = w
  obtain ⟨hop, hres, hmode, hy, hx⟩ := (eq_pixel_iff mode x y).1 hw.symm
  simp [decodeSingle, unlessReserved, hop, hres, hmode, hy, hx]

theorem decodeSingle_header {i : Instr} (hi : opcode i ≠ 0x08) : decodeSingle (header i) = .ok i := by
  cases i with
  | init | clear | flush | fclear | width | height => decide
  | pclr x y => exact decodeSingle_pixel 0b00 x y
  | pset x y => exact decodeSingle_pixel 0b01 x y
  | pinv x y => exact decodeSingle_pixel 0b10 x y
  | fill color =>
    obtain ⟨hop, hres, hcolor⟩ := (eq_header_fill_iff color).1 rfl
    simp [decodeSingle, unlessReserved, hop, hres, hcolor]
  | cmd byte =>
    obtain ⟨hop, hres, hbyte⟩ := (eq_header_cmd_iff byte).1 rfl
    simp [decodeSingle, unlessReserved, hop, hres, hbyte]
  | cmdl bytes => exact absurd rfl hi
  | rawrd index =>
    obtain ⟨hop, hres, hindex⟩ := (eq_header_rawrd_iff index).1 rfl
    simp [decodeSingle, unlessReserved, hop, hres, hindex]
  | rawwr index value =>
    obtain ⟨hop, hres, hvalue, hindex⟩ := (eq_header_rawwr_iff index value).1 rfl
    simp [decodeSingle, unlessReserved, hop, hres, hvalue, hindex]

theorem eq_header_of_decodeSingle {w : Word} {i : Instr} (h : decodeSingle w = .ok i) : w = header i := by
  have hop {op : Byte} (h : (opField w).toNat = op.toNat) : opField w = op := BitVec.eq_of_toNat_eq h
  unfold decodeSingle at h
  split at h <;> simp only [unlessReserved_eq_ok_iff, reduceCtorEq] at h
  -- opcode 0x02 is format P, with three requests; every other opcode that is left holds one
  case h_2 hw =>
    obtain ⟨hres, hd⟩ := h
    rcases decodePixel_eq_ok hd with ⟨hm, rfl⟩ | ⟨hm, rfl⟩ | ⟨hm, rfl⟩
    · exact (eq_pixel_iff 0 _ _).2 ⟨hop hw, hres, hm, rfl, rfl⟩
    · exact (eq_pixel_iff 1 _ _).2 ⟨hop hw, hres, hm, rfl, rfl⟩
    · exact (eq_pixel_iff 2 _ _).2 ⟨hop hw, hres, hm, rfl, rfl⟩
  all_goals
    rename_i hw
    obtain ⟨hres, h⟩ := h
    cases h
  case h_3 => exact (eq_header_fill_iff _).2 ⟨hop hw, hres, rfl⟩
  case h_7 => exact (eq_header_cmd_iff _).2 ⟨hop hw, hres, rfl⟩
  case h_8 => exact (eq_header_rawrd_iff _).2 ⟨hop hw, hres, rfl⟩
  case h_9 => exact (eq_header_rawwr_iff _ _).2 ⟨hop hw, hres, rfl, rfl⟩
  all_goals exact (eq_header_iff_of_plain (by rfl)).2 ⟨hop hw, hres⟩

end Sys2Proof
end

section
/-! CMDL, format L: the payload words and the byte list they pack (30 R61, R68). -/

namespace Sys2Proof

/-! ### Packing -/

theorem field_or (u v : Word) (lo len : Nat) : field (u ||| v) lo len = field u lo len ||| field v lo len := by
  rw [field_eq_iff]
  intro b hb
  simp only [BitVec.getLsbD_or, getLsbD_field, hb, decide_true, Bool.true_and]

/-- A placed byte fills its own eight bits of the word and no others. -/
theorem field_placeByte (bytes : List Byte) (j : Nat) {b c : Nat} (hb : b < 8) :
    field (placeByte bytes j c) (8 * b) 8 = if b = c then bytes.getD (8 * j + c) 0 else 0 := by
  rw [field_eq_iff]
  intro k hk
  have hbit : (placeByte bytes j c).getLsbD (8 * b + k) =
      (!decide (8 * b + k < 8 * c) && (bytes.getD (8 * j + c) 0).getLsbD (8 * b + k - 8 * c)) := by
    have h64 : 8 * b + k < 64 := by omega
    simp [placeByte, h64]
  rw [hbit]
  split
  · next h => subst h; simp
  · next h =>
    rcases Nat.lt_or_gt_of_ne h with hlt | hgt
    · have : 8 * b + k < 8 * c := by omega
      simp [this]
    · rw [BitVec.getLsbD_of_ge _ (8 * b + k - 8 * c) (by omega)]; simp

/-- Byte `b` of payload word `j` is byte `8 * j + b` of the list. -/
theorem field_packWord (bytes : List Byte) (j : Nat) {b : Nat} (hb : b < 8) :
    field (packWord bytes j) (8 * b) 8 = bytes.getD (8 * j + b) 0 := by
  simp only [packWord, field_or, field_placeByte bytes j hb]
  interval_cases b <;> simp

/-- A word is its eight bytes. -/
theorem eq_of_bytes_eq {u v : Word} (h : ∀ b < 8, field u (8 * b) 8 = field v (8 * b) 8) : u = v := by
  refine BitVec.eq_of_getLsbD_eq fun k hk => ?_
  have hbit := field_eq_iff.1 (h (k / 8) (by omega)) (k % 8) (by omega)
  rwa [getLsbD_field, decide_eq_true (by omega : k % 8 < 8), Bool.true_and, Nat.div_add_mod] at hbit

theorem payloadByte_append (ps rest : List Word) {k : Nat} (hk : k < 8 * ps.length) :
    payloadByte (ps ++ rest) k = payloadByte ps k := by
  have : k / 8 < ps.length := by omega
  rw [payloadByte, payloadByte, List.getD_append _ _ _ _ this]

theorem payload_cmdl_length (bytes : List Byte) :
    (payload (.cmdl bytes)).length = payloadWords bytes.length := by simp [payload]

theorem payloadByte_payload (bytes : List Byte) {k : Nat} (hk : k < 8 * payloadWords bytes.length) :
    payloadByte (payload (.cmdl bytes)) k = bytes.getD k 0 := by
  have hj : k / 8 < payloadWords bytes.length := by omega
  have hword : (payload (.cmdl bytes)).getD (k / 8) 0 = packWord bytes (k / 8) := by simp [payload, hj]
  rw [payloadByte, hword, field_packWord bytes _ (by omega), Nat.div_add_mod]

theorem spareZero_iff {n : Nat} {ps : List Word} :
    spareZero n ps = true ↔ ∀ k, n ≤ k → k < 8 * payloadWords n → payloadByte ps k = 0 := by
  simp only [spareZero, List.all_eq_true, List.mem_range, decide_eq_true_eq]
  constructor
  · intro h k hn hk
    simpa [Nat.add_sub_cancel' hn] using h (k - n) (by omega)
  · intro h k hk
    exact h (n + k) (by omega) (by omega)

/-- Payload words are their bytes. -/
theorem eq_of_payloadByte_eq {ps qs : List Word} (hlen : ps.length = qs.length)
    (h : ∀ k < 8 * ps.length, payloadByte ps k = payloadByte qs k) : ps = qs := by
  refine List.ext_getElem hlen fun j hj hj' => eq_of_bytes_eq fun b hb => ?_
  have hbyte := h (8 * j + b) (by omega)
  have hdiv : (8 * j + b) / 8 = j := by omega
  have hmod : (8 * j + b) % 8 = b := by omega
  rwa [payloadByte, payloadByte, hdiv, hmod, List.getD_eq_getElem _ _ hj, List.getD_eq_getElem _ _ hj'] at hbyte

/-- The payload words of a byte list are the words that hold its bytes in order and then zeros. -/
theorem eq_payload_iff {bytes : List Byte} {ps : List Word} (hlen : ps.length = payloadWords bytes.length) :
    ps = payload (.cmdl bytes) ↔
      spareZero bytes.length ps = true ∧ (List.range bytes.length).map (payloadByte ps) = bytes := by
  have hn : bytes.length ≤ 8 * payloadWords bytes.length := by unfold payloadWords; omega
  constructor
  · rintro rfl
    refine ⟨spareZero_iff.2 fun k hnk hk => ?_, List.ext_getElem (by simp) fun k hk hk' => ?_⟩
    · rw [payloadByte_payload bytes hk, List.getD_eq_default _ _ hnk]
    · rw [List.getElem_map, List.getElem_range, payloadByte_payload bytes (by omega), List.getD_eq_getElem _ _ hk']
  · rintro ⟨hspare, hbytes⟩
    refine eq_of_payloadByte_eq (hlen.trans (payload_cmdl_length bytes).symm) fun k hk => ?_
    rw [hlen] at hk
    rw [payloadByte_payload bytes hk]
    rcases Nat.lt_or_ge k bytes.length with hkn | hkn
    · have hbyte := List.getElem_of_eq hbytes (i := k) (by simpa using hkn)
      rwa [List.getElem_map, List.getElem_range, ← List.getD_eq_getElem _ 0 hkn] at hbyte
    · rw [List.getD_eq_default _ _ hkn, spareZero_iff.1 hspare k hkn hk]

/-- The checks on a payload read only its own words. -/
theorem spareZero_append {n : Nat} {ps : List Word} (rest : List Word) (hlen : ps.length = payloadWords n) :
    spareZero n (ps ++ rest) = spareZero n ps := by
  rw [Bool.eq_iff_iff, spareZero_iff, spareZero_iff]
  exact forall₃_congr fun k _ hk => by rw [payloadByte_append ps rest (by omega)]

theorem map_payloadByte_append {n : Nat} {ps : List Word} (rest : List Word) (hlen : ps.length = payloadWords n) :
    (List.range n).map (payloadByte (ps ++ rest)) = (List.range n).map (payloadByte ps) := by
  refine List.map_congr_left fun k hk => payloadByte_append ps rest ?_
  have := List.mem_range.1 hk
  unfold payloadWords at hlen
  omega

/-! ### Decoding format L -/

/-- A CMDL header with its payload words and no check of 30 R73 failing is a request. -/
theorem decodeList_append {w : Word} {n : Nat} {ps : List Word} (rest : List Word) (hres : field w 8 48 = 0)
    (hn : (field w 0 8).toNat = n) (hpos : n ≠ 0) (hlen : ps.length = payloadWords n)
    (hspare : spareZero n ps = true) :
    decodeList w (ps ++ rest) = .instr (.cmdl ((List.range n).map (payloadByte ps))) rest := by
  have hge : ¬(ps ++ rest).length < payloadWords n := by simp [hlen]
  simp only [decodeList, hn]
  rw [if_neg (by simp [hres]), if_neg hpos, if_neg hge, spareZero_append rest hlen, if_pos hspare,
    map_payloadByte_append rest hlen, ← hlen, List.drop_left]

/-- Format L answers a request only when no check of 30 R73 fails and its payload words are all there. -/
theorem decodeList_instr {w : Word} {ws rest : List Word} {i : Instr} {n : Nat} (hn : (field w 0 8).toNat = n)
    (h : decodeList w ws = .instr i rest) :
    field w 8 48 = 0 ∧ n ≠ 0 ∧ ∃ ps, ws = ps ++ rest ∧ ps.length = payloadWords n ∧ spareZero n ps = true ∧
      i = .cmdl ((List.range n).map (payloadByte ps)) := by
  simp only [decodeList, hn] at h
  split_ifs at h with hres hpos hlt hspare
  cases h
  have hlen : (ws.take (payloadWords n)).length = payloadWords n := List.length_take_of_le (by omega)
  have hws : ws = ws.take (payloadWords n) ++ ws.drop (payloadWords n) := (List.take_append_drop _ _).symm
  have hmap := map_payloadByte_append (ws.drop (payloadWords n)) hlen
  rw [hws, spareZero_append _ hlen] at hspare
  rw [← hws] at hmap
  exact ⟨by simpa using hres, hpos, _, hws, hlen, hspare, by rw [hmap]⟩

theorem decodeList_illegal_iff {w : Word} {ws : List Word} :
    (∃ why rest, decodeList w ws = .illegal why w rest) ↔
      field w 8 48 ≠ 0 ∨ (field w 0 8).toNat = 0 ∨
        (payloadWords (field w 0 8).toNat ≤ ws.length ∧ spareZero (field w 0 8).toNat ws = false) := by
  simp only [decodeList]
  split_ifs with hres hn hlen hspare
  · exact iff_of_true ⟨_, _, rfl⟩ (.inl hres)
  · exact iff_of_true ⟨_, _, rfl⟩ (.inr (.inl hn))
  · exact iff_of_false (by simp) (by simp_all)
  · exact iff_of_false (by simp) (by simp_all)
  · exact iff_of_true ⟨_, _, rfl⟩ (.inr (.inr ⟨by omega, by simpa using hspare⟩))

theorem decodeList_incomplete {w : Word} {ws : List Word} (h : decodeList w ws = .incomplete) :
    ws.length < payloadWords (field w 0 8).toNat := by
  simp only [decodeList] at h
  split_ifs at h
  assumption

theorem Instr.wellFormed_cmdl_iff (bytes : List Byte) :
    (Instr.cmdl bytes).wellFormed = true ↔ 1 ≤ bytes.length ∧ bytes.length ≤ 255 := by
  simp [Instr.wellFormed]

/-- A well-formed byte list's length fits the count field. -/
theorem header_cmdl_count {bytes : List Byte} (hwf : (Instr.cmdl bytes).wellFormed = true) :
    (field (header (.cmdl bytes)) 0 8).toNat = bytes.length := by
  obtain ⟨-, -, hcount⟩ := (eq_header_cmdl_iff bytes).1 rfl
  obtain ⟨-, hmax⟩ := (Instr.wellFormed_cmdl_iff bytes).1 hwf
  rw [hcount, BitVec.toNat_ofNat, Nat.mod_eq_of_lt (by omega)]

theorem decodeList_encode {bytes : List Byte} (rest : List Word) (hwf : (Instr.cmdl bytes).wellFormed = true) :
    decodeList (header (.cmdl bytes)) (payload (.cmdl bytes) ++ rest) = .instr (.cmdl bytes) rest := by
  obtain ⟨-, hres, -⟩ := (eq_header_cmdl_iff bytes).1 rfl
  obtain ⟨hpos, -⟩ := (Instr.wellFormed_cmdl_iff bytes).1 hwf
  have hlen := payload_cmdl_length bytes
  obtain ⟨hspare, hbytes⟩ := (eq_payload_iff hlen).1 rfl
  rw [decodeList_append rest hres (header_cmdl_count hwf) (by omega) hlen hspare, hbytes]

theorem encode_of_decodeList {w : Word} (hop : opField w = 0x08) {ws rest : List Word} {i : Instr}
    (h : decodeList w ws = .instr i rest) : w :: ws = encode i ++ rest := by
  obtain ⟨hres, -, ps, rfl, hlen, hspare, rfl⟩ := decodeList_instr rfl h
  generalize hbytes : (List.range (field w 0 8).toNat).map (payloadByte ps) = bytes
  have hcount : (field w 0 8).toNat = bytes.length := by rw [← hbytes, List.length_map, List.length_range]
  have hw : w = header (.cmdl bytes) :=
    (eq_header_cmdl_iff bytes).2 ⟨hop, hres, by rw [← hcount, BitVec.ofNat_toNat, BitVec.setWidth_eq]⟩
  rw [hcount] at hlen hspare hbytes
  rw [encode, ← hw, ← (eq_payload_iff hlen).2 ⟨hspare, hbytes⟩, List.cons_append]

end Sys2Proof
end

section
/-! Decoding and encoding are inverse on well-formed requests (30 R60 to R76). -/

namespace Sys2Proof

theorem opField_header (i : Instr) : opField (header i) = opcode i := by
  open Laws.OpcodeByte in
  cases i with
  | init => exact init
  | pclr x y => exact pclr x y
  | pset x y => exact pset x y
  | pinv x y => exact pinv x y
  | fill color => exact fill color
  | clear => exact clear
  | flush => exact flush
  | fclear => exact fclear
  | cmd byte => exact cmd byte
  | cmdl bytes => exact cmdl bytes
  | rawrd index => exact rawrd index
  | rawwr index value => exact rawwr index value
  | width => exact width
  | height => exact height

theorem decode_of_cmdl {w : Word} (h : opField w = 0x08) (ws : List Word) : decode (w :: ws) = decodeList w ws :=
  if_pos h

/-- CMDL is the one request with payload words (30 R61). -/
theorem Instr.eq_cmdl_or_payload_nil (i : Instr) :
    (∃ bytes, i = .cmdl bytes) ∨ (opcode i ≠ 0x08 ∧ payload i = []) := by
  cases i
  case cmdl bytes => exact .inl ⟨bytes, rfl⟩
  all_goals exact .inr ⟨by simp [opcode], rfl⟩

theorem decode_encode {i : Instr} (rest : List Word) (hwf : i.wellFormed = true) :
    decode (encode i ++ rest) = .instr i rest := by
  rw [encode, List.cons_append]
  rcases i.eq_cmdl_or_payload_nil with ⟨bytes, rfl⟩ | ⟨hop, hnil⟩
  · rw [decode_of_cmdl (opField_header _), decodeList_encode rest hwf]
  · simp only [decode, opField_header, if_neg hop, decodeSingle_header hop, hnil, List.nil_append]

theorem encode_length {i : Instr} (hwf : i.wellFormed = true) : (encode i).length = requestLength (header i) := by
  rw [requestLength, opField_header, encode, List.length_cons]
  rcases i.eq_cmdl_or_payload_nil with ⟨bytes, rfl⟩ | ⟨hop, hnil⟩
  · rw [if_pos (show opcode (.cmdl bytes) = 0x08 from rfl), payload_cmdl_length, header_cmdl_count hwf, Nat.add_comm]
  · rw [if_neg hop, hnil, List.length_nil]

theorem encode_of_decode {ws rest : List Word} {i : Instr} (h : decode ws = .instr i rest) : ws = encode i ++ rest := by
  cases ws with
  | nil => cases h
  | cons w ws =>
    by_cases hw : opField w = 0x08
    · rw [decode_of_cmdl hw] at h
      exact encode_of_decodeList hw h
    · simp only [decode, if_neg hw] at h
      split at h
      · next j hd =>
        cases h
        obtain rfl := eq_header_of_decodeSingle hd
        rcases i.eq_cmdl_or_payload_nil with ⟨bytes, rfl⟩ | ⟨-, hnil⟩
        · exact absurd (opField_header _) hw
        · rw [encode, hnil, List.cons_append, List.nil_append]
      · cases h

/-- Settles O5: both directions of the codec meet in the fields of the header and the bytes of the payload. -/
theorem decodeOfEncodeIsIdentity : Obligations.DecodeOfEncodeIsIdentity :=
  fun _ rest hwf => ⟨decode_encode rest hwf, encode_length hwf⟩

/-- Settles O6: the fields a format checks and reads are all the bits of its words. -/
theorem encodeOfDecodeIsIdentity : Obligations.EncodeOfDecodeIsIdentity :=
  fun _ _ _ h => ⟨decode_wellFormed h, encode_of_decode h⟩

/-- Settles O9: the decoder computes each of the ten answers. -/
theorem sampleWordsDecode : Obligations.SampleWordsDecode := by
  unfold Obligations.SampleWordsDecode
  decide

end Sys2Proof
end

section
/-! The illegal requests are those of 30 R72 and R73, and each raises ILLEGAL_REQUEST (60 R201, R203(1)). -/

namespace Sys2Proof.Machine

theorem exists_unlessReserved_error_iff {w : Word} {lo len : Nat} {legal : Except Illegal Instr} :
    (∃ why, unlessReserved w lo len legal = .error why) ↔ field w lo len ≠ 0 ∨ ∃ why, legal = .error why := by
  unfold unlessReserved
  split <;> simp_all

theorem exists_decodePixel_error_iff {m : BitVec 2} {x y : BitVec 16} :
    (∃ why, decodePixel m.toNat x y = .error why) ↔ m = 3 := by
  have hm : m = 0 ∨ m = 1 ∨ m = 2 ∨ m = 3 := by revert m; decide
  rcases hm with rfl | rfl | rfl | rfl <;> simp [decodePixel]

/-- The one-word formats' checks (30 R72, R73(a), (b)). -/
theorem exists_decodeSingle_error_iff {w : Word} (ws : List Word) (hw : opField w ≠ 0x08) :
    (∃ why, decodeSingle w = .error why) ↔ IllegalRequest w ws := by
  have hw : (opField w).toNat ≠ 8 := fun h => hw (BitVec.eq_of_toNat_eq h)
  have hop : (w.extractLsb' 56 8).toNat = (opField w).toNat := rfl
  unfold decodeSingle IllegalRequest
  rw [hop]
  generalize (opField w).toNat = op at hw ⊢
  split
  -- last the reserved opcodes, no format's; under every other one the format's own checks decide
  case h_12 =>
    have hlisted : op = 0 ∨ 13 ≤ op := by simp only [imp_false] at *; omega
    exact iff_of_true ⟨_, rfl⟩ (hlisted.imp_right .inl)
  all_goals
    simp only [exists_unlessReserved_error_iff, exists_decodePixel_error_iff]
    simp [field]

/-- Format L's checks (30 R73(a), (c), (d)). -/
theorem exists_decodeList_illegal_iff {w : Word} (ws : List Word) (hw : opField w = 0x08) :
    (∃ why rest, decodeList w ws = .illegal why w rest) ↔ IllegalRequest w ws := by
  have hop : (w.extractLsb' 56 8).toNat = 8 := congrArg BitVec.toNat hw
  rw [decodeList_illegal_iff, ← Bool.not_eq_true, spareZero_iff, IllegalRequest]
  simp [hop, field, payloadWords, payloadByte]

theorem exists_decode_illegal_iff (w : Word) (ws : List Word) :
    (∃ why rest, decode (w :: ws) = .illegal why w rest) ↔ IllegalRequest w ws := by
  by_cases hw : opField w = 0x08
  · rw [decode_of_cmdl hw, exists_decodeList_illegal_iff ws hw]
  · rw [← exists_decodeSingle_error_iff ws hw]
    simp only [decode, if_neg hw]
    split <;> simp_all

/-- ISSUE of an illegal request is the fault and nothing else (60 R201). -/
theorem raisesIllegal_of_illegalRequest {w : Word} {ws : List Word} (h : IllegalRequest w ws) : RaisesIllegal w ws := by
  intro s ha hport
  obtain ⟨why, rest, hd⟩ := (exists_decode_illegal_iff w ws).2 h
  refine ⟨rest, (s.sampled.setPort rest).raiseFault .illegalRequest w, ?_, rfl⟩
  rw [step_of_accepting ha, issueStep, State.sampled_port, hport, hd]

theorem decode_ne_incomplete {w : Word} {ws : List Word} (h : requestLength w ≤ (w :: ws).length) :
    decode (w :: ws) ≠ .incomplete := by
  intro hd
  by_cases hw : opField w = 0x08
  · rw [decode_of_cmdl hw] at hd
    have hlt := decodeList_incomplete hd
    rw [requestLength, if_pos hw, List.length_cons] at h
    omega
  · simp only [decode, if_neg hw] at hd
    split at hd <;> cases hd

/-- Settles O7: the decoder's verdict is the list's, opcode by opcode, and ISSUE turns the verdict into the fault. -/
theorem illegalRequestsAreThoseListed : Obligations.IllegalRequestsAreThoseListed :=
  ⟨exists_decode_illegal_iff, fun _ _ => raisesIllegal_of_illegalRequest, fun _ _ => decode_ne_incomplete⟩

end Sys2Proof.Machine
end

section
/-! CMDL's whole rule: packing, one transaction, exceptions (30 R68, 41 R150). -/

namespace Sys2Proof.Machine

/-- Under opcode CMDL the checks of format L decide illegality. -/
theorem raisesIllegal_cmdl {w : Word} {ws : List Word} (hw : opField w = 0x08)
    (h : field w 8 48 ≠ 0 ∨ (field w 0 8).toNat = 0 ∨
      (payloadWords (field w 0 8).toNat ≤ ws.length ∧ spareZero (field w 0 8).toNat ws = false)) :
    RaisesIllegal w ws :=
  raisesIllegal_of_illegalRequest ((exists_decodeList_illegal_iff ws hw).1 (decodeList_illegal_iff.2 h))

/-- The header word of `n` payload bytes, as 30 R76 writes it, in the fields of format L. -/
theorem cmdlWord_fields {n : Nat} (hn : n ≤ 255) {w : Word} (hw : w = 0x08#64 <<< 56 ||| BitVec.ofNat 64 n) :
    opField w = 0x08 ∧ field w 8 48 = 0 ∧ (field w 0 8).toNat = n := by
  have hcount : (BitVec.ofNat 8 n).setWidth 64 = BitVec.ofNat 64 n := by
    refine BitVec.eq_of_toNat_eq ?_
    rw [BitVec.toNat_setWidth, BitVec.toNat_ofNat, BitVec.toNat_ofNat]
    omega
  have hw : w = opWord 0x08 (BitVec.ofNat 8 n) := by rw [hw, opWord, hcount]; rfl
  obtain ⟨hop, hres, hfield⟩ := (eq_opWord_iff (by omega)).1 hw
  exact ⟨hop, hres, by rw [hfield, BitVec.toNat_ofNat, Nat.mod_eq_of_lt (by omega)]⟩

theorem header_cmdl_eq {bytes : List Byte} (hmax : bytes.length ≤ 255) :
    header (.cmdl bytes) = 0x08#64 <<< 56 ||| BitVec.ofNat 64 bytes.length := by
  obtain ⟨hop, hres, hcount⟩ := cmdlWord_fields hmax rfl
  refine ((eq_header_cmdl_iff bytes).2 ⟨hop, hres, BitVec.eq_of_toNat_eq ?_⟩).symm
  rw [hcount, BitVec.toNat_ofNat, Nat.mod_eq_of_lt (by omega)]

/-- Settles O42: decoding and the illegal forms are format L's checks on the header's fields; the rest is the
allocation check. -/
theorem cmdlQueuesByteList : Obligations.CmdlQueuesByteList := by
  refine ⟨?decodes, ?queues, ?needsInit, ?zeroCount, ?sparePayload, ?reserved⟩
  case decodes =>
    intro n ps rest hpos hmax hlen hspare
    obtain ⟨hop, hres, hcount⟩ := cmdlWord_fields hmax rfl
    rw [decode_of_cmdl hop]
    exact decodeList_append rest hres hcount (by omega) hlen (spareZero_iff.2 hspare)
  case queues => exact fun bs s _ _ ha => ⟨_, whenAllocated_of_alloc _ ha, rfl⟩
  case needsInit =>
    intro bs _ hmax s ha
    rw [← header_cmdl_eq hmax]
    exact ⟨_, whenAllocated_of_not_alloc _ ha, rfl⟩
  case zeroCount => exact fun ws => raisesIllegal_cmdl (by decide) (.inr (.inl (by decide)))
  case sparePayload =>
    intro n ps k hpos hmax hlen hnk hk hbyte
    obtain ⟨hop, -, hcount⟩ := cmdlWord_fields hmax rfl
    refine raisesIllegal_cmdl hop (.inr (.inr ?_))
    rw [hcount]
    exact ⟨hlen, Bool.eq_false_iff.2 fun hspare => hbyte (spareZero_iff.1 hspare k hnk hk)⟩
  case reserved => exact fun w ws hop hres => raisesIllegal_cmdl hop (.inl hres)

end Sys2Proof.Machine
end

section
/-! The opcode table: disjoint rows, and the row each header fits (30 R71). -/

namespace Sys2Proof

/-- A pattern within its mask, with operand bits `v` in the places the mask leaves out, still fits. -/
theorem or_setWidth_and {p m : Word} {n : Nat} (v : BitVec n) (hp : p &&& m = p) (hm : m.setWidth n = 0) :
    (p ||| v.setWidth 64) &&& m = p := by
  have hv : v.setWidth 64 &&& m = 0 := by
    refine BitVec.eq_of_getLsbD_eq fun b _ => ?_
    rcases Nat.lt_or_ge b n with h | h
    · have hbit : m.getLsbD b = false := by
        simpa [BitVec.getLsbD_setWidth, h] using congrArg (BitVec.getLsbD · b) hm
      simp [hbit]
    · simp [BitVec.getLsbD_of_ge v b h]
  rw [BitVec.and_or_distrib_right, hp, hv]
  exact BitVec.or_zero

theorem or_shift_or_setWidth_and {p m : Word} {a b : Nat} (u : BitVec a) (v : BitVec b) (hp : p &&& m = p)
    (hm : m.setWidth (a + b) = 0) : (p ||| u.setWidth 64 <<< b ||| v.setWidth 64) &&& m = p := by
  rw [BitVec.or_assoc, ← setWidth_append]
  exact or_setWidth_and (u ++ v) hp hm

/-- The row of a request's mnemonic: its header fits it. -/
theorem exists_row (i : Instr) :
    ∃ r ∈ opcodeTable, r.mnemonic = mnemonic i ∧ header i &&& r.mask = r.pattern := by
  cases i with
  | init => exact ⟨opcodeTable[0], by decide, rfl, by decide⟩
  | pclr x y => exact ⟨opcodeTable[1], by decide, rfl, or_shift_or_setWidth_and y x (by decide) (by decide)⟩
  | pset x y => exact ⟨opcodeTable[2], by decide, rfl, or_shift_or_setWidth_and y x (by decide) (by decide)⟩
  | pinv x y => exact ⟨opcodeTable[3], by decide, rfl, or_shift_or_setWidth_and y x (by decide) (by decide)⟩
  | fill c => exact ⟨opcodeTable[4], by decide, rfl, or_setWidth_and c (by decide) (by decide)⟩
  | clear => exact ⟨opcodeTable[5], by decide, rfl, by decide⟩
  | flush => exact ⟨opcodeTable[6], by decide, rfl, by decide⟩
  | fclear => exact ⟨opcodeTable[7], by decide, rfl, by decide⟩
  | cmd byte => exact ⟨opcodeTable[8], by decide, rfl, or_setWidth_and byte (by decide) (by decide)⟩
  | cmdl bytes =>
    exact ⟨opcodeTable[9], by decide, rfl, or_setWidth_and (BitVec.ofNat 8 bytes.length) (by decide) (by decide)⟩
  | rawrd index => exact ⟨opcodeTable[10], by decide, rfl, or_setWidth_and index (by decide) (by decide)⟩
  | rawwr index value =>
    exact ⟨opcodeTable[11], by decide, rfl, or_shift_or_setWidth_and value index (by decide) (by decide)⟩
  | width => exact ⟨opcodeTable[12], by decide, rfl, by decide⟩
  | height => exact ⟨opcodeTable[13], by decide, rfl, by decide⟩

theorem opcodeTable_mnemonic_nodup : (opcodeTable.map TableRow.mnemonic).Nodup := by decide

/-- Two rows' patterns disagree on a bit that both masks test. -/
theorem opcodeTable_patterns_conflict :
    opcodeTable.Pairwise fun r q => r.pattern &&& q.mask ≠ q.pattern &&& r.mask := by decide

/-- No word fits both rows. -/
def TableRow.Disjoint (r q : TableRow) : Prop := ∀ w : Word, ¬(w &&& r.mask = r.pattern ∧ w &&& q.mask = q.pattern)

theorem opcodeTable_disjoint : opcodeTable.Pairwise TableRow.Disjoint := by
  refine opcodeTable_patterns_conflict.imp fun hne w ⟨hr, hq⟩ => hne ?_
  rw [← hr, ← hq, BitVec.and_assoc, BitVec.and_assoc, BitVec.and_comm (x := TableRow.mask _)]

theorem row_unique {r q : TableRow} (hr : r ∈ opcodeTable) (hq : q ∈ opcodeTable) {w : Word}
    (hrw : w &&& r.mask = r.pattern) (hqw : w &&& q.mask = q.pattern) : r = q := by
  have : Std.Symm TableRow.Disjoint := ⟨fun _ _ h w hw => h w hw.symm⟩
  by_contra hne
  exact opcodeTable_disjoint.forall hr hq hne w ⟨hrw, hqw⟩

/-- Settles O8: a header fits its own mnemonic's row, and no word fits two. -/
theorem opcodeTableRowsAreDisjoint : Obligations.OpcodeTableRowsAreDisjoint := by
  refine ⟨opcodeTable_disjoint, fun i _ r hr => ?_⟩
  obtain ⟨q, hq, hmn, hfits⟩ := exists_row i
  constructor
  · intro h
    rw [row_unique hr hq h hfits, hmn]
  · intro h
    obtain rfl := List.inj_on_of_nodup_map opcodeTable_mnemonic_nodup hr hq (h.trans hmn.symm)
    exact hfits

end Sys2Proof
end


section
/-! Assembler lines: every request a line names has an encoding, so its words decode to it (30 R76, R77). -/

namespace Sys2Proof.Machine

/-! ### Which mnemonics name a request -/

/-- The mnemonics of the assembler syntax, pseudo-instructions among them (30 R76, R77). -/
def assemblerMnemonics : List (List Char) :=
  ["init", "pclr", "pset", "pinv", "fill", "flush", "fclear", "clear", "cmd", "cmdl", "rawrd", "rawwr", "width",
    "height", "setpixel", "sendraw"].map String.toList

/-- A list is empty or has a head. -/
theorem forall_list {P : Option Instr → Prop} {F : List Char → Option Instr} (hnil : P (F []))
    (hcons : ∀ c cs, P (F (c :: cs))) : ∀ cs, P (F cs)
  | [] => hnil
  | c :: cs => hcons c cs

/-- The head is the letter looked for or another one. -/
theorem forall_letter {P : Option Instr → Prop} {a : Char} {t : ∀ c, List Char → c = a → Option Instr}
    {e : Char → List Char → Option Instr} (ht : ∀ cs, P (t a cs rfl)) (he : ∀ c cs, P (e c cs)) :
    ∀ c cs, P (dite (c = a) (t c cs) fun _ => e c cs) := by
  intro c cs
  split
  · next h => subst h; exact ht cs
  · exact he c cs

-- `split` needs equations that the sixteen words' matcher is too large for. The proof walks the matcher's own tree
-- of letters instead, which smart unfolding would keep folded.
set_option smartUnfolding false in
/-- What holds of a refusal and of every mnemonic's answer holds of every answer. -/
theorem assembleRequest_of_mnemonics {P : Option Instr → Prop} (hnone : P none) (ops : List (List Char))
    (hmn : ∀ mn ∈ assemblerMnemonics, P (assembleRequest mn ops)) : ∀ mn, P (assembleRequest mn ops) := by
  repeat' first
    | exact hnone
    | exact fun _ _ => hnone
    | refine forall_letter ?_ ?_
    | refine forall_list ?_ ?_
  -- the ends of the sixteen words, in the order of the list
  exacts [hmn "init".toList (by decide), hmn "pclr".toList (by decide), hmn "pset".toList (by decide),
    hmn "pinv".toList (by decide), hmn "fill".toList (by decide), hmn "flush".toList (by decide),
    hmn "fclear".toList (by decide), hmn "clear".toList (by decide), hmn "cmd".toList (by decide),
    hmn "cmdl".toList (by decide), hmn "rawrd".toList (by decide), hmn "rawwr".toList (by decide),
    hmn "width".toList (by decide), hmn "height".toList (by decide), hmn "setpixel".toList (by decide),
    hmn "sendraw".toList (by decide)]

/-! ### The requests named -/

/-- If a request is named, it has an encoding. -/
def NamesWellFormed (o : Option Instr) : Prop := ∀ i, o = some i → i.wellFormed = true

namespace NamesWellFormed

theorem of_none : NamesWellFormed none := nofun

theorem of_some {i : Instr} (h : i.wellFormed = true) : NamesWellFormed (some i) := by
  rintro _ ⟨⟩
  exact h

theorem of_bind {α : Type} {f : α → Option Instr} {o : Option α} (h : ∀ a, NamesWellFormed (f a)) :
    NamesWellFormed (o.bind f) := by
  cases o with
  | none => exact of_none
  | some a => exact h a

theorem of_map {α : Type} {f : α → Instr} {o : Option α} (h : ∀ a, (f a).wellFormed = true) :
    NamesWellFormed (o.map f) := by
  cases o with
  | none => exact of_none
  | some a => exact of_some (h a)

theorem of_coordPair {f : BitVec 16 → BitVec 16 → Instr} {a b : List Char} (h : ∀ x y, (f x y).wellFormed = true) :
    NamesWellFormed (coordPair a b f) :=
  of_bind fun x => of_map (h x)

/-- The list form takes 1 to 255 bytes. -/
theorem of_listOperand {ops : List (List Char)} : NamesWellFormed ((listOperand ops).map .cmdl) := by
  intro i h
  obtain ⟨bytes, hbytes, rfl⟩ := Option.map_eq_some_iff.1 h
  rw [Instr.wellFormed_cmdl_iff]
  unfold listOperand at hbytes
  split at hbytes
  · split at hbytes
    · next hlen => cases hbytes; exact hlen
    · cases hbytes
  · cases hbytes

theorem of_modeOperand {a b m : List Char} :
    NamesWellFormed ((modeOperand m).bind fun mode => coordPair a b mode.setPixel) :=
  of_bind fun mode => of_coordPair fun x y => by cases mode <;> rfl

/-! A mnemonic that takes one number of operands only. -/

section
variable {F : List (List Char) → Option Instr} {ops : List (List Char)}

theorem of_nullary (h : NamesWellFormed (F [])) (hmore : ∀ a ops, F (a :: ops) = none) : NamesWellFormed (F ops) := by
  rcases ops with _ | ⟨a, ops⟩
  · exact h
  · rw [hmore]; exact of_none

theorem of_unary (h : ∀ a, NamesWellFormed (F [a])) (hnil : F [] = none)
    (hmore : ∀ a b ops, F (a :: b :: ops) = none) : NamesWellFormed (F ops) := by
  rcases ops with _ | ⟨a, _ | ⟨b, ops⟩⟩
  · rw [hnil]; exact of_none
  · exact h a
  · rw [hmore]; exact of_none

theorem of_binary (h : ∀ a b, NamesWellFormed (F [a, b])) (hnil : F [] = none) (hone : ∀ a, F [a] = none)
    (hmore : ∀ a b c ops, F (a :: b :: c :: ops) = none) : NamesWellFormed (F ops) := by
  rcases ops with _ | ⟨a, _ | ⟨b, _ | ⟨c, ops⟩⟩⟩
  · rw [hnil]; exact of_none
  · rw [hone]; exact of_none
  · exact h a b
  · rw [hmore]; exact of_none

end

end NamesWellFormed

open NamesWellFormed in
theorem assembleRequest_wellFormed (mn : List Char) (ops : List (List Char)) :
    NamesWellFormed (assembleRequest mn ops) := by
  refine assembleRequest_of_mnemonics of_none ops ?_ mn
  simp only [assemblerMnemonics, List.map_cons, List.map_nil, List.forall_mem_cons]
  refine ⟨?init, ?pclr, ?pset, ?pinv, ?fill, ?flush, ?fclear, ?clear, ?cmd, ?cmdl, ?rawrd, ?rawwr, ?width, ?height,
    ?setpixel, ?sendraw, nofun⟩
  case init | flush | fclear | clear | width | height => exact of_nullary (of_some rfl) (fun _ _ => rfl)
  case pclr | pset | pinv =>
    exact of_binary (fun _ _ => of_coordPair fun _ _ => rfl) rfl (fun _ => rfl) (fun _ _ _ _ => rfl)
  case fill | cmd | rawrd | sendraw => exact of_unary (fun _ => of_map fun _ => rfl) rfl (fun _ _ _ => rfl)
  case rawwr =>
    exact of_binary (fun _ _ => of_bind fun _ => of_map fun _ => rfl) rfl (fun _ => rfl) (fun _ _ _ _ => rfl)
  case cmdl => exact of_listOperand
  case setpixel =>
    rcases ops with _ | ⟨a, _ | ⟨b, _ | ⟨m, _ | ⟨c, ops⟩⟩⟩⟩
    case cons.cons.cons.nil => exact of_modeOperand
    all_goals exact of_none

/-! ### Lines -/

theorem parseLine_wellFormed {line : List Char} {i : Instr} (h : parseLine line = some (some i)) :
    i.wellFormed = true := by
  unfold parseLine at h
  split at h
  · cases h
  · obtain ⟨j, hj, hji⟩ := Option.map_eq_some_iff.1 h
    cases hji
    exact assembleRequest_wellFormed _ _ _ hj

/-- Settles O48: the request a line names is well-formed, so decoding its encoding gives it back. -/
theorem assembledLinesDecode : Obligations.AssembledLinesDecode := by
  intro line ws h
  unfold assembleLine at h
  split at h
  · next i hp =>
    cases h
    have hwf := parseLine_wellFormed hp
    exact .inr ⟨i, hp, hwf, by simpa using decode_encode [] hwf⟩
  · next hp =>
    cases h
    exact .inl ⟨hp, rfl⟩
  · cases h

/-- Settles O49: both sides run the same arm on the same operands. -/
theorem pseudoInstructionsExpand : Obligations.PseudoInstructionsExpand :=
  ⟨fun _ _ => rfl, fun _ _ => rfl, fun _ _ => rfl, by decide, by decide, fun _ => rfl⟩

end Sys2Proof.Machine
end

section
/-! What every one-word request's rule begins and ends with: its encoding, its reserved bits (30 R73(a)) and the
allocation check (60 R203(2)). -/

namespace Sys2Proof.Machine

/-! ### Encoding and exceptions, by header and format -/

/-- Every request but CMDL is its header alone. -/
theorem encodes_header {i : Instr} (hi : ∀ bytes, i ≠ .cmdl bytes) : Encodes (header i) i := by
  intro rest
  obtain ⟨hop, -⟩ := i.eq_cmdl_or_payload_nil.resolve_left fun ⟨bytes, h⟩ => hi bytes h
  simp only [decode, opField_header, if_neg hop, decodeSingle_header hop]

/-- Every request but INIT faults before its own work while `ALLOC = 0` (60 R203(2)). -/
theorem exec_of_not_alloc {i : Instr} (hi : i ≠ .init) {s : State} (ha : s.alloc = false) :
    exec i s = .next (s.raiseFault .notInitialized (header i)) := by
  cases i with
  | init => exact absurd rfl hi
  | pclr | pset | pinv | fill | clear | flush | fclear | cmd | cmdl | rawrd | rawwr | width | height =>
    exact whenAllocated_of_not_alloc _ ha

theorem needsInit_header {i : Instr} (hi : i ≠ .init) : NeedsInit i (header i) :=
  fun _ ha => ⟨_, exec_of_not_alloc hi ha, rfl⟩

/-- An opcode whose format is checked for these reserved bits raises on each of them. -/
theorem reservedBitsRaise_of_format {op : Byte} {lo len : Nat} (hop : op ≠ 0x08)
    (hfmt : ∀ w, opField w = op → ∃ legal, decodeSingle w = unlessReserved w lo len legal) :
    ReservedBitsRaise op lo len := by
  intro w ws hw hres
  have hw : opField w = op := hw
  obtain ⟨legal, hd⟩ := hfmt w hw
  refine raisesIllegal_of_illegalRequest ((exists_decodeSingle_error_iff ws (hw ▸ hop)).1 ?_)
  rw [hd]
  exact exists_unlessReserved_error_iff.2 (.inl hres)

/-! ### What a response leaves -/

@[simp] theorem State.fbByte_respond (s : State) (r : Option Byte) : (s.respond r).fbByte = s.fbByte := rfl

end Sys2Proof.Machine
end

section
/-! The pixel mux: a pixel on the screen is one bit of one framebuffer byte (40 R101 to R103). -/

namespace Sys2Proof.Machine

/-- The mask of a row is one-hot, at the row's bit position (40 R102). -/
theorem mask_eq_twoPow (y : Nat) : mask y = BitVec.twoPow 8 (pos y) := by
  have hone : ∀ r < 8, 0x80#8 >>> r = BitVec.twoPow 8 (7 - r) := by decide
  exact hone (y % 8) (Nat.mod_lt y (by decide))

theorem getLsbD_mask (y b : Nat) : (mask y).getLsbD b = decide (b = pos y) := by
  have hpos : pos y < 8 := by unfold pos; omega
  simp [mask_eq_twoPow, BitVec.getLsbD_twoPow, hpos, eq_comm]

theorem pixelIndex_eq (x y : Nat) : pixelIndex x y = x + y / 8 * 106 := rfl

theorem pos_eq (y : Nat) : pos y = 7 - y % 8 := rfl

theorem pixel_eq_getLsbD (fb : Nat → Byte) (x y : Nat) : pixel fb x y = (fb (pixelIndex x y)).getLsbD (pos y) := rfl

/-- Different pixels of the display are different bits of the framebuffer (40 R115). -/
theorem pixel_place_injective {x y x' y' : Nat} (hx : x < 106) (hx' : x' < 106)
    (hk : pixelIndex x y = pixelIndex x' y') (hb : pos y = pos y') : x = x' ∧ y = y' := by
  rw [pixelIndex_eq, pixelIndex_eq] at hk
  rw [pos_eq, pos_eq] at hb
  have hx : x = x' := by omega
  exact ⟨hx, by omega⟩

/-- Of band 8 the pixels use bit 7 alone (20 R44). -/
theorem pos_eq_seven_of_band_eight {x y : Nat} (hx : x < 106) (hy : y < 65) (hk : 848 ≤ pixelIndex x y) :
    pos y = 7 := by
  rw [pixelIndex_eq] at hk
  rw [pos_eq]
  omega

/-- Settles O24: the mux is arithmetic on the coordinates, and the mask the one-hot form of the bit position. -/
theorem pixelMuxSelectsByteAndBit : Obligations.PixelMuxSelectsByteAndBit := by
  refine ⟨fun y hy => ⟨rfl, ?_, rfl, rfl, mask_eq_twoPow y⟩, by decide, fun x y hx hy => ⟨rfl, ?_⟩, rfl,
    fun fb x y _ _ => pixel_eq_getLsbD fb x y⟩
  · show y / 8 ≤ 8
    omega
  · exact Nat.le_of_lt_succ (pixelIndex_lt hx hy)

end Sys2Proof.Machine
end

section
/-! The three pixel requests, as the modes of `setPixel` (30 R77): each combines one byte with its pixel's mask, which
sets, clears or toggles that pixel's bit (40 R100, R104 to R106, R114, R115). -/

namespace Sys2Proof

/-! ### The modes -/

/-- The mode field of the request word (30 R64). -/
def PixelMode.code (m : PixelMode) : Word :=
  match m with
  | .off => 0b00
  | .on => 0b01
  | .inverse => 0b10

/-- A framebuffer byte combined with its pixel's mask (40 R104 to R106). -/
def PixelMode.combine (m : PixelMode) (b v : Byte) : Byte :=
  match m with
  | .off => b &&& ~~~v
  | .on => b ||| v
  | .inverse => b ^^^ v

/-- The pixel's new value, from its old one. -/
def PixelMode.newValue (m : PixelMode) (old : Bool) : Bool :=
  match m with
  | .off => false
  | .on => true
  | .inverse => !old

/-- The combination writes the bits of the mask and keeps the others. -/
theorem PixelMode.getLsbD_combine (m : PixelMode) (b v : Byte) (k : Nat) :
    (m.combine b v).getLsbD k = if v.getLsbD k then m.newValue (b.getLsbD k) else b.getLsbD k := by
  cases m with
  | on => cases hv : v.getLsbD k <;> simp [combine, newValue, hv]
  | inverse => cases hv : v.getLsbD k <;> simp [combine, newValue, hv]
  | off =>
    simp only [combine, newValue, BitVec.getLsbD_and, BitVec.getLsbD_not]
    rcases Nat.lt_or_ge k 8 with hk | hk
    · cases v.getLsbD k <;> simp [hk]
    · simp [BitVec.getLsbD_of_ge _ k hk]

theorem PixelMode.setPixel_ne_init (m : PixelMode) (x y : BitVec 16) : m.setPixel x y ≠ .init := by
  cases m <;> exact nofun

theorem PixelMode.setPixel_ne_cmdl (m : PixelMode) (x y : BitVec 16) (bytes : List Byte) :
    m.setPixel x y ≠ .cmdl bytes := by
  cases m <;> exact nofun

end Sys2Proof

namespace Sys2Proof.Machine

theorem header_setPixel (m : PixelMode) (x y : BitVec 16) : header (m.setPixel x y) = pixelWord m.code x y := by
  cases m <;> rfl

theorem exists_mode_of_mem_pixelRequests {i : BitVec 16 → BitVec 16 → Instr} (hi : i ∈ pixelRequests) :
    ∃ m : PixelMode, i = m.setPixel := by
  have hi : i = .pset ∨ i = .pclr ∨ i = .pinv := by simpa [pixelRequests] using hi
  rcases hi with rfl | rfl | rfl
  · exact ⟨.on, rfl⟩
  · exact ⟨.off, rfl⟩
  · exact ⟨.inverse, rfl⟩

theorem exec_setPixel_of_alloc (m : PixelMode) (x y : BitVec 16) {s : State} (ha : s.alloc = true) :
    exec (m.setPixel x y) s = .next ((s.updatePixel x y m.combine).respond none) := by
  cases m <;> exact whenAllocated_of_alloc _ ha

/-! ### The update, by byte and by bit -/

@[simp] theorem State.updatePixel_alloc (s : State) (x y : BitVec 16) (f : Byte → Byte → Byte) :
    (s.updatePixel x y f).alloc = s.alloc := by
  unfold State.updatePixel
  split <;> rfl

theorem State.fbByte_updatePixel (s : State) (x y : BitVec 16) (f : Byte → Byte → Byte) (k : Nat) :
    (s.updatePixel x y f).fbByte k =
      if OnScreen x y ∧ k = pixelIndex x.toNat y.toNat then f (s.fbByte k) (mask y.toNat) else s.fbByte k := by
  by_cases ho : OnScreen x y
  · rw [s.updatePixel_of_onScreen f ho, State.fbByte_fbWrite]
    by_cases hk : k = pixelIndex x.toNat y.toNat
    · rw [if_pos hk, if_pos ⟨ho, hk⟩, hk]
    · rw [if_neg hk, if_neg fun h => hk h.2]
  · rw [s.updatePixel_of_not_onScreen f ho, if_neg fun h => ho h.1]

/-- Bit `b` of framebuffer byte `k` is the pixel (x, y). -/
def IsPixelBit (x y : BitVec 16) (k b : Nat) : Prop :=
  OnScreen x y ∧ k = pixelIndex x.toNat y.toNat ∧ b = pos y.toNat

/-- The framebuffer after a pixel request, bit by bit: its own pixel has the new value, every other bit is kept. -/
theorem getLsbD_fbByte_setPixel {m : PixelMode} {x y : BitVec 16} {s t : State} (ha : s.alloc = true)
    (h : exec (m.setPixel x y) s = .next t) (k b : Nat) :
    (IsPixelBit x y k b → (t.fbByte k).getLsbD b = m.newValue ((s.fbByte k).getLsbD b)) ∧
    (¬IsPixelBit x y k b → (t.fbByte k).getLsbD b = (s.fbByte k).getLsbD b) := by
  rw [exec_setPixel_of_alloc m x y ha] at h
  obtain rfl := Host.Outcome.next.inj h
  rw [State.fbByte_respond, State.fbByte_updatePixel]
  by_cases hk : OnScreen x y ∧ k = pixelIndex x.toNat y.toNat
  · rw [if_pos hk, m.getLsbD_combine, getLsbD_mask]
    have hp : IsPixelBit x y k b ↔ b = pos y.toNat := ⟨fun h => h.2.2, fun h => ⟨hk.1, hk.2, h⟩⟩
    simp +contextual [hp]
  · rw [if_neg hk]
    exact ⟨fun hp => absurd ⟨hp.1, hp.2.1⟩ hk, fun _ => rfl⟩

/-- A pixel request answers a state that is allocated still. -/
theorem exists_exec_setPixel (m : PixelMode) (x y : BitVec 16) {s : State} (ha : s.alloc = true) :
    ∃ t, exec (m.setPixel x y) s = .next t ∧ t.alloc = true :=
  ⟨_, exec_setPixel_of_alloc m x y ha, by simpa using ha⟩

theorem IsPixelBit.unique {x y x' y' : BitVec 16} {k b : Nat} (h : IsPixelBit x y k b) (h' : IsPixelBit x' y' k b) :
    (x, y) = (x', y') := by
  obtain ⟨ho, hk, hb⟩ := h
  obtain ⟨ho', hk', hb'⟩ := h'
  obtain ⟨hx, hy⟩ := pixel_place_injective ho.x_lt ho'.x_lt (hk.symm.trans hk') (hb.symm.trans hb')
  rw [BitVec.eq_of_toNat_eq hx, BitVec.eq_of_toNat_eq hy]

/-! ### The rules -/

/-- Settles O23: the bounds check is the signed comparison, and outside it the update is the state itself. -/
theorem outOfBoundsPixelIsNoOp : Obligations.OutOfBoundsPixelIsNoOp := by
  refine ⟨inBounds_iff, fun i hi x y s ha ho => ?_⟩
  obtain ⟨m, rfl⟩ := exists_mode_of_mem_pixelRequests hi
  rw [exec_setPixel_of_alloc m x y ha, s.updatePixel_of_not_onScreen _ ho, State.respond]

/-- The whole rule of each mode's request. -/
theorem pixelRule_setPixel (m : PixelMode) : PixelRule m.code m.setPixel m.combine := by
  refine ⟨fun x y => ?encodes, fun x y s ha => ?effect, fun x y => ?needsInit, ?reserved⟩
  case encodes =>
    rw [← header_setPixel]
    exact encodes_header (m.setPixel_ne_cmdl x y)
  case effect =>
    exact ⟨_, exec_setPixel_of_alloc m x y ha, s.sameButFb_updatePixel x y _ none, s.fbByte_updatePixel x y _⟩
  case needsInit =>
    rw [← header_setPixel]
    exact needsInit_header (m.setPixel_ne_init x y)
  case reserved => exact reservedBitsRaise_of_format (by decide) fun w hw => ⟨_, by rw [decodeSingle, hw]; rfl⟩

/-- Settles O25: PSET is mode `on`. -/
theorem psetSetsOnePixel : Obligations.PsetSetsOnePixel := pixelRule_setPixel .on

/-- Settles O26: PCLR is mode `off`. -/
theorem pclrClearsOnePixel : Obligations.PclrClearsOnePixel := pixelRule_setPixel .off

/-- Settles O27: PINV is mode `inverse`. -/
theorem pinvTogglesOnePixel : Obligations.PinvTogglesOnePixel := pixelRule_setPixel .inverse

/-- Pixel requests on different coordinates change different bits, so their order does not matter (40 R115). -/
theorem setPixel_comm {m n : PixelMode} {x y x' y' : BitVec 16} (hne : (x, y) ≠ (x', y')) {s t u t' u' : State}
    (hs : s.alloc = true) (ht : t.alloc = true) (ht' : t'.alloc = true)
    (hst : exec (m.setPixel x y) s = .next t) (htu : exec (n.setPixel x' y') t = .next u)
    (hst' : exec (n.setPixel x' y') s = .next t') (htu' : exec (m.setPixel x y) t' = .next u') (k : Nat) :
    u.fbByte k = u'.fbByte k := by
  refine BitVec.eq_of_getLsbD_eq fun b _ => ?_
  obtain ⟨own_st, keep_st⟩ := getLsbD_fbByte_setPixel hs hst k b
  obtain ⟨own_tu, keep_tu⟩ := getLsbD_fbByte_setPixel ht htu k b
  obtain ⟨own_st', keep_st'⟩ := getLsbD_fbByte_setPixel hs hst' k b
  obtain ⟨own_tu', keep_tu'⟩ := getLsbD_fbByte_setPixel ht' htu' k b
  by_cases h : IsPixelBit x y k b
  · have h' : ¬IsPixelBit x' y' k b := fun h' => hne (h.unique h')
    rw [keep_tu h', own_st h, own_tu' h, keep_st' h']
  · by_cases h' : IsPixelBit x' y' k b
    · rw [own_tu h', keep_st h, keep_tu' h, own_st' h']
    · rw [keep_tu h', keep_st h, keep_tu' h, keep_st' h']

/-- Settles O29: a request changes no bit but its own pixel's, and no two pixels share a bit. -/
theorem pixelRequestsAreLocal : Obligations.PixelRequestsAreLocal := by
  refine ⟨?ownBit, fun x y x' y' hx _ hx' _ => pixel_place_injective hx hx', ?commute⟩
  case ownBit =>
    intro i hi x y s ha
    obtain ⟨m, rfl⟩ := exists_mode_of_mem_pixelRequests hi
    obtain ⟨t, ht, -⟩ := exists_exec_setPixel m x y ha
    refine ⟨t, ht, fun k b hne => ?_⟩
    obtain ⟨ho, rfl, rfl⟩ : IsPixelBit x y k b :=
      not_not.1 fun hp => hne ((getLsbD_fbByte_setPixel ha ht k b).2 hp)
    exact ⟨ho, rfl, rfl, pos_eq_seven_of_band_eight ho.x_lt ho.y_lt⟩
  case commute =>
    intro i hi j hj x y x' y' s ha hne
    obtain ⟨m, rfl⟩ := exists_mode_of_mem_pixelRequests hi
    obtain ⟨n, rfl⟩ := exists_mode_of_mem_pixelRequests hj
    obtain ⟨t, hst, ht⟩ := exists_exec_setPixel m x y ha
    obtain ⟨u, htu, -⟩ := exists_exec_setPixel n x' y' ht
    obtain ⟨t', hst', ht'⟩ := exists_exec_setPixel n x' y' ha
    obtain ⟨u', htu', -⟩ := exists_exec_setPixel m x y ht'
    exact ⟨t, u, t', u', hst, htu, hst', htu', setPixel_comm hne ha ht ht' hst htu hst' htu'⟩

end Sys2Proof.Machine
end

section
/-! The bulk, raw and dimension requests (40 R107 to R113), and the laws of 40 R114. -/

namespace Sys2Proof.Machine

/-! ### What they answer, once allocated -/

theorem exec_fill_of_alloc (c : BitVec 16) {s : State} (ha : s.alloc = true) :
    exec (.fill c) s = .next ((s.fbFill (fillByte c)).respond none) := whenAllocated_of_alloc _ ha

theorem exec_clear_of_alloc {s : State} (ha : s.alloc = true) :
    exec .clear s = .next ((s.fbFill 0x00).respond none) := whenAllocated_of_alloc _ ha

theorem exec_rawrd_of_alloc (k : BitVec 16) {s : State} (ha : s.alloc = true) :
    exec (.rawrd k) s = whenInRange (.rawrd k) k s (.next (s.respond (some (s.fbByte k.toNat)))) :=
  whenAllocated_of_alloc _ ha

theorem exec_rawwr_of_alloc (k : BitVec 16) (v : Byte) {s : State} (ha : s.alloc = true) :
    exec (.rawwr k v) s = whenInRange (.rawwr k v) k s (.next ((s.fbWrite k.toNat v).respond none)) :=
  whenAllocated_of_alloc _ ha

/-- INIT of an allocated block makes no draw and zeroes the framebuffer (41 R148). -/
theorem exec_init_of_alloc {s : State} (ha : s.alloc = true) : exec .init s = .next s.configure :=
  congrArg Host.Outcome.next (if_pos ha)

theorem State.fbByte_configure (s : State) {k : Nat} (hk : k < 954) : s.configure.fbByte k = 0x00 :=
  s.fbByte_fbFill k 0x00 hk

/-! ### The rules -/

/-- Settles O30: the fill writes `fillByte` of the colour everywhere. -/
theorem fillWritesEveryByte : Obligations.FillWritesEveryByte :=
  ⟨fun c => encodes_header (i := .fill c) nofun,
    fun c s ha => ⟨_, exec_fill_of_alloc c ha, s.sameButFb_fbFill _ none, fun k hk => s.fbByte_fbFill k _ hk⟩,
    fun c => needsInit_header (i := .fill c) nofun,
    reservedBitsRaise_of_format (by decide) fun w hw => ⟨_, by rw [decodeSingle, hw]; rfl⟩⟩

theorem header_clear : header .clear = 0x0400000000000000 := by decide

theorem header_width : header .width = 0x0B00000000000000 := by decide

theorem header_height : header .height = 0x0C00000000000000 := by decide

/-- Settles O31: CLEAR is the fill with zero. -/
theorem clearZeroesEveryByte : Obligations.ClearZeroesEveryByte := by
  unfold Obligations.ClearZeroesEveryByte
  rw [← header_clear]
  exact ⟨encodes_header nofun,
    fun s ha => ⟨_, exec_clear_of_alloc ha, s.sameButFb_fbFill _ none, exec_fill_of_alloc 0 ha,
      fun k hk => s.fbByte_fbFill k _ hk⟩,
    needsInit_header nofun,
    reservedBitsRaise_of_format (by decide) fun w hw => ⟨_, by rw [decodeSingle, hw]; rfl⟩⟩

/-- Settles O32: RAWRD answers the byte read when the range check passes. -/
theorem rawReadRespondsByte : Obligations.RawReadRespondsByte :=
  ⟨fun k => encodes_header (i := .rawrd k) nofun,
    fun k _ ha hk => (exec_rawrd_of_alloc k ha).trans (whenInRange_of_lt _ hk),
    fun k _ ha hk => ⟨_, (exec_rawrd_of_alloc k ha).trans (whenInRange_of_le _ hk), rfl⟩,
    fun k => needsInit_header (i := .rawrd k) nofun,
    reservedBitsRaise_of_format (by decide) fun w hw => ⟨_, by rw [decodeSingle, hw]; rfl⟩⟩

/-- Settles O33: RAWWR is one framebuffer write when the range check passes. -/
theorem rawWriteStoresByte : Obligations.RawWriteStoresByte :=
  ⟨fun k v => encodes_header (i := .rawwr k v) nofun,
    fun k v s ha hk => ⟨_, (exec_rawwr_of_alloc k v ha).trans (whenInRange_of_lt _ hk),
      s.sameButFb_fbWrite _ v none, fun j => s.fbByte_fbWrite _ j v⟩,
    fun k v _ ha hk => ⟨_, (exec_rawwr_of_alloc k v ha).trans (whenInRange_of_le _ hk), rfl⟩,
    fun k v => needsInit_header (i := .rawwr k v) nofun,
    reservedBitsRaise_of_format (by decide) fun w hw => ⟨_, by rw [decodeSingle, hw]; rfl⟩⟩

/-- Settles O34: past the allocation check each request answers its constant. -/
theorem dimensionsRespondConstants : Obligations.DimensionsRespondConstants := by
  unfold Obligations.DimensionsRespondConstants
  rw [← header_width, ← header_height]
  exact ⟨⟨encodes_header nofun, fun _ ha => whenAllocated_of_alloc _ ha, needsInit_header nofun,
      reservedBitsRaise_of_format (by decide) fun w hw => ⟨_, by rw [decodeSingle, hw]; rfl⟩⟩,
    ⟨encodes_header nofun, fun _ ha => whenAllocated_of_alloc _ ha, needsInit_header nofun,
      reservedBitsRaise_of_format (by decide) fun w hw => ⟨_, by rw [decodeSingle, hw]; rfl⟩⟩⟩

/-! ### The laws of 40 R114 -/

/-- PCLR of a pixel on the screen leaves it off. -/
theorem pixel_off_of_pclr {x y : BitVec 16} (ho : OnScreen x y) {t u : State} (ht : t.alloc = true)
    (htu : exec (.pclr x y) t = .next u) : pixel u.fbByte x.toNat y.toNat = false := by
  rw [pixel_eq_getLsbD]
  exact (getLsbD_fbByte_setPixel (m := .off) ht htu _ _).1 ⟨ho, rfl, rfl⟩

/-- PINV twice restores every byte. -/
theorem fbByte_pinv_pinv {x y : BitVec 16} {s t u : State} (hs : s.alloc = true) (ht : t.alloc = true)
    (hst : exec (.pinv x y) s = .next t) (htu : exec (.pinv x y) t = .next u) (k : Nat) :
    u.fbByte k = s.fbByte k := by
  refine BitVec.eq_of_getLsbD_eq fun b _ => ?_
  obtain ⟨own_st, keep_st⟩ := getLsbD_fbByte_setPixel (m := .inverse) hs hst k b
  obtain ⟨own_tu, keep_tu⟩ := getLsbD_fbByte_setPixel (m := .inverse) ht htu k b
  by_cases h : IsPixelBit x y k b
  · rw [own_tu h, own_st h]
    exact Bool.not_not _
  · rw [keep_tu h, keep_st h]

/-- Settles O28: (a) and (d) on the pixel's own bit, (b) by the bounds check, (c) because both fills are with zero. -/
theorem pixelAndFillLaws : Obligations.PixelAndFillLaws := by
  intro s ha _
  refine ⟨fun x y ho => ?setThenClear, fun i hi x y ho => ?outOfBounds, fun c _ => ?fillThenZero,
    fun x y => ?invertTwice⟩
  case setThenClear =>
    obtain ⟨t, hst, ht⟩ := exists_exec_setPixel .on x y ha
    obtain ⟨u, htu, -⟩ := exists_exec_setPixel .off x y ht
    have hoff := pixel_off_of_pclr ho ht htu
    exact ⟨t, u, hst, htu, hoff, by rw [hoff]; exact eq_comm⟩
  case outOfBounds => exact ⟨_, outOfBoundsPixelIsNoOp.2 i hi x y s ha ho, fun _ => rfl⟩
  case fillThenZero =>
    refine ⟨_, _, _, exec_fill_of_alloc c ha, exec_fill_of_alloc 0 ha, exec_init_of_alloc ha, fun k hk => ?_⟩
    have hzero := ((s.fbFill (fillByte c)).respond none).fbByte_fbFill k (fillByte 0) hk
    exact ⟨hzero, hzero.trans (s.fbByte_configure hk).symm⟩
  case invertTwice =>
    obtain ⟨t, hst, ht⟩ := exists_exec_setPixel .inverse x y ha
    obtain ⟨u, htu, -⟩ := exists_exec_setPixel .inverse x y ht
    exact ⟨t, u, hst, htu, fbByte_pinv_pinv ha ht hst htu⟩

end Sys2Proof.Machine
end

section
/-! The transport requests (41 R140 to R151): what each queues, as lines written one after another, and the rest of each
one's rule. -/

namespace Sys2Proof.Machine

/-! ### Building blocks and line images -/

/-- Settles O36: the three constructors of transactions, written out. -/
theorem transactionBuildingBlocks : Obligations.TransactionBuildingBlocks :=
  ⟨fun _ => ⟨rfl, rfl⟩, fun _ _ => rfl⟩

/-- Bit 7 of a top-line byte is row 0 (41 R143). -/
theorem getLsbD_topByte_eq_pixel (fb : Nat → Byte) (x : Nat) {b : Nat} (hb : b < 8) :
    (topByte (fb x)).getLsbD b = if b = 7 then pixel fb x 0 else false := by
  rw [getLsbD_topByte _ _ hb]
  by_cases h7 : b = 7 <;> simp [h7, pixel]

/-- The remap moves every row of line `l` up by one: its bit 0 comes from the next band (41 R144). -/
theorem getLsbD_remapByte_eq_pixel (fb : Nat → Byte) (l x : Nat) {b : Nat} (hb : b < 8) :
    (remapByte (fb (x + l * 106)) (fb (x + (l + 1) * 106))).getLsbD b = pixel fb x (8 * l + 8 - b) := by
  rw [getLsbD_remapByte _ _ _ hb, pixel_eq_getLsbD, pixelIndex_eq, pos_eq]
  by_cases h0 : b = 0
  · have hband : (8 * l + 8 - b) / 8 = l + 1 := by omega
    have hpos : 7 - (8 * l + 8 - b) % 8 = 7 := by omega
    rw [if_pos h0, hband, hpos]
  · have hband : (8 * l + 8 - b) / 8 = l := by omega
    have hpos : 7 - (8 * l + 8 - b) % 8 = b - 1 := by omega
    rw [if_neg h0, hband, hpos]

/-- Settles O37: the images are their definitions, and each bit is located in its band. -/
theorem lineImagesCarryRemappedRows : Obligations.LineImagesCarryRemappedRows :=
  ⟨fun _ => rfl, fun _ _ => rfl, fun fb x _ hb => getLsbD_topByte_eq_pixel fb x hb,
    fun fb l x _ _ hb => getLsbD_remapByte_eq_pixel fb l x hb⟩

/-! ### Lines written in an order -/

/-- The lines `ls` written in order, line `l` with the bytes `img l`. -/
def lineWrites (p : Config.Params) (img : Nat → List Byte) (ls : List Nat) : List Txn :=
  ls.flatMap fun l => lineWrite p l (img l)

/-- What FLUSH sends to each line (41 R146). -/
def flushImage (fb : Nat → Byte) (l : Nat) : List Byte := if l = 8 then topLine fb else remapLine fb l

theorem flushImage_length (fb : Nat → Byte) (l : Nat) : (flushImage fb l).length = 106 := by
  unfold flushImage
  split
  · exact topLine_length fb
  · exact remapLine_length fb l

theorem flushTxns_eq_lineWrites (p : Config.Params) (fb : Nat → Byte) :
    flushTxns p fb = lineWrites p (flushImage fb) (8 :: List.range 8) := by
  rw [flushTxns, lineWrites, List.flatMap_cons]
  refine congrArg (lineWrite p 8 (topLine fb) ++ ·) (List.flatMap_congr fun l hl => ?_)
  rw [flushImage, if_neg (Nat.ne_of_lt (List.mem_range.1 hl))]

theorem fclearTxns_eq_lineWrites (p : Config.Params) :
    fclearTxns p = lineWrites p (fun _ => List.replicate 106 0) (List.range 9) := rfl

theorem lineWrites_cons (p : Config.Params) (img : Nat → List Byte) (l : Nat) (ls : List Nat) :
    lineWrites p img (l :: ls) = lineWrite p l (img l) ++ lineWrites p img ls := List.flatMap_cons

theorem lineWrites_length (p : Config.Params) (img : Nat → List Byte) (ls : List Nat) :
    (lineWrites p img ls).length = 4 * ls.length := by
  induction ls with
  | nil => rfl
  | cons l ls ih =>
    rw [lineWrites_cons, List.length_append, ih, List.length_cons, Nat.mul_succ, Nat.add_comm]
    rfl

/-- The transactions from the `k`-th group on: each group is four transactions. -/
theorem drop_lineWrites (p : Config.Params) (img : Nat → List Byte) {ls : List Nat} {k l : Nat}
    (h : ls[k]? = some l) :
    (lineWrites p img ls).drop (4 * k) = lineWrite p l (img l) ++ lineWrites p img (ls.drop (k + 1)) := by
  induction ls generalizing k with
  | nil => cases h
  | cons l' ls ih =>
    cases k with
    | zero =>
      obtain rfl : l' = l := by simpa using h
      exact lineWrites_cons p img l' ls
    | succ k => exact ih h

/-- The `k`-th group selects its line and then sends the line's bytes. -/
theorem lineWrites_group (p : Config.Params) (img : Nat → List Byte) {ls : List Nat} {k : Nat} {a : Byte}
    (h : (ls.map Config.lineAddr)[k]? = some a) :
    ∃ l, ((lineWrites p img ls).drop (4 * k)).take 3 = asel p a ∧
      (lineWrites p img ls)[4 * k + 3]? = some (dataTxn (img l)) := by
  rw [List.getElem?_map, Option.map_eq_some_iff] at h
  obtain ⟨l, hl, rfl⟩ := h
  refine ⟨l, ?_, ?_⟩
  · rw [drop_lineWrites p img hl]
    rfl
  · rw [← List.getElem?_drop, drop_lineWrites p img hl]
    rfl

/-! ### FLUSH, FCLEAR and CMD -/

theorem exec_flush_of_alloc {s : State} (ha : s.alloc = true) :
    exec .flush s = .next ((s.emit (flushTxns Config.params s.fbByte)).respond none) := whenAllocated_of_alloc _ ha

theorem exec_fclear_of_alloc {s : State} (ha : s.alloc = true) :
    exec .fclear s = .next ((s.emit (fclearTxns Config.params)).respond none) := whenAllocated_of_alloc _ ha

/-- Settles O43: both queue nine groups of four transactions, and differ in their images and the order of lines. -/
theorem flushAndFclearCounts : Obligations.FlushAndFclearCounts := by
  intro s ha hq
  refine ⟨⟨_, exec_flush_of_alloc ha, ?flush⟩, ⟨_, exec_fclear_of_alloc ha, ?fclear⟩⟩
  case flush =>
    rw [State.respond_txq, State.emit_txq, hq, List.nil_append, flushTxns_eq_lineWrites]
    refine ⟨lineWrites_length _ _ _, fun k a h => ?_⟩
    obtain ⟨l, hsel, hdata⟩ := lineWrites_group Config.params (flushImage s.fbByte) (ls := 8 :: List.range 8) h
    exact ⟨hsel, _, hdata, flushImage_length _ l⟩
  case fclear =>
    rw [State.respond_txq, State.emit_txq, hq, List.nil_append, fclearTxns_eq_lineWrites]
    refine ⟨lineWrites_length _ _ _, fun k a h => ?_⟩
    obtain ⟨_, hsel, hdata⟩ := lineWrites_group Config.params _ (ls := List.range 9) h
    exact ⟨hsel, hdata⟩

theorem State.sameButQueue_emit (s : State) (ts : List Txn) (r : Option Byte) :
    s.SameButQueue ((s.emit ts).respond r) ts r := rfl

theorem header_flush : header .flush = 0x0500000000000000 := by decide

theorem header_fclear : header .fclear = 0x0600000000000000 := by decide

theorem header_init : header .init = 0x0100000000000000 := by decide

/-- Settles O38: past the allocation check FLUSH queues its nine lines. -/
theorem flushQueuesRemappedLines : Obligations.FlushQueuesRemappedLines := by
  unfold Obligations.FlushQueuesRemappedLines
  rw [← header_flush]
  exact ⟨encodes_header nofun, fun s ha => ⟨_, exec_flush_of_alloc ha, s.sameButQueue_emit _ none⟩,
    needsInit_header nofun,
    reservedBitsRaise_of_format (by decide) fun w hw => ⟨_, by rw [decodeSingle, hw]; rfl⟩⟩

/-- Settles O39: past the allocation check FCLEAR queues nine zero lines. -/
theorem fclearQueuesZeroLines : Obligations.FclearQueuesZeroLines := by
  unfold Obligations.FclearQueuesZeroLines
  rw [← header_fclear]
  exact ⟨encodes_header nofun, fun s ha => ⟨_, exec_fclear_of_alloc ha, s.sameButQueue_emit _ none⟩,
    needsInit_header nofun,
    reservedBitsRaise_of_format (by decide) fun w hw => ⟨_, by rw [decodeSingle, hw]; rfl⟩⟩

/-- Settles O41: past the allocation check CMD queues its byte. -/
theorem cmdQueuesOneByte : Obligations.CmdQueuesOneByte :=
  ⟨fun b => encodes_header (i := .cmd b) nofun,
    fun _ s ha => ⟨_, whenAllocated_of_alloc _ ha, s.sameButQueue_emit _ none⟩,
    fun b => needsInit_header (i := .cmd b) nofun,
    reservedBitsRaise_of_format (by decide) fun w hw => ⟨_, by rw [decodeSingle, hw]; rfl⟩⟩

/-! ### INIT -/

/-- INIT whose draw succeeds allocates and configures (41 R148). -/
theorem exec_init_of_allocDraw {s : State} (ha : s.alloc = false) (hd : s.allocDraw = true) :
    exec .init s = .next s.takeDraw.setAlloc.configure := by
  simp [exec, execInit, State.initialized, ha, hd]

/-- INIT whose draw fails answers 0x00 (41 R148). -/
theorem exec_init_of_not_allocDraw {s : State} (ha : s.alloc = false) (hd : s.allocDraw = false) :
    exec .init s = .next (s.takeDraw.respond (some 0x00)) := by
  simp [exec, execInit, State.initialized, ha, hd]

/-- Settles O40: the three ends of INIT's allocation test. -/
theorem initAllocatesZeroesAndConfigures : Obligations.InitAllocatesZeroesAndConfigures := by
  unfold Obligations.InitAllocatesZeroesAndConfigures
  rw [← header_init]
  exact ⟨encodes_header nofun,
    fun s ha => ⟨_, exec_init_of_alloc ha, rfl, fun _ hk => s.fbByte_configure hk⟩,
    fun s ha hd => ⟨_, exec_init_of_allocDraw ha hd, rfl, fun _ hk => s.takeDraw.setAlloc.fbByte_configure hk⟩,
    fun _ ha hd => exec_init_of_not_allocDraw ha hd,
    reservedBitsRaise_of_format (by decide) fun w hw => ⟨_, by rw [decodeSingle, hw]; rfl⟩⟩

end Sys2Proof.Machine
end

section
/-! What the reference controller shows after whole lines are delivered (41 R160 to R163). -/

namespace Sys2Proof.Machine

/-! ### Delivering lines -/

theorem mem_selectedLines {p : Config.Params} {sel : List Txn} {l : Nat} :
    l ∈ selectedLines p sel ↔ l < 9 ∧ asel p (Config.lineAddr l) = sel := by
  simp [selectedLines]

theorem isData_dataTxn {bs : List Byte} (h : bs.length = 106) : isData (dataTxn bs) = true := by
  simp [isData, dataTxn, h]

/-- A line written in full is the pattern the controller looks for. -/
theorem deliver_lineWrite_append {p : Config.Params} {l : Nat} (hl : l < 9) {bs : List Byte} (hbs : bs.length = 106)
    (rest : List Txn) (cm : CtrlMem) :
    deliver p (lineWrite p l bs ++ rest) cm =
      deliver p rest (writeLines (selectedLines p (asel p (Config.lineAddr l))) bs cm) := by
  have hsel : selectedLines p (asel p (Config.lineAddr l)) ≠ [] := List.ne_nil_of_mem (mem_selectedLines.2 ⟨hl, rfl⟩)
  have hpattern : (isData (dataTxn bs) && !(selectedLines p (asel p (Config.lineAddr l))).isEmpty) = true := by
    simp [isData_dataTxn hbs, hsel]
  exact if_pos hpattern

/-- Lines that the same transactions select are given the same bytes. -/
def SameImageWhereAlike (p : Config.Params) (img : Nat → List Byte) : Prop :=
  ∀ k l, k < 9 → l < 9 → asel p (Config.lineAddr k) = asel p (Config.lineAddr l) → img k = img l

/-- A line that is written, or that held its image before, holds its image after: whatever selects it sends that. -/
theorem deliver_lineWrites {p : Config.Params} {img : Nat → List Byte} (himg : SameImageWhereAlike p img)
    (hlen : ∀ l, (img l).length = 106) {ls : List Nat} (hls : ∀ l ∈ ls, l < 9) (cm : CtrlMem) {l c : Nat} (hl : l < 9)
    (hc : c < 106) (h : l ∈ ls ∨ cm l c = (img l)[c]?) : deliver p (lineWrites p img ls) cm l c = (img l)[c]? := by
  induction ls generalizing cm with
  | nil => exact h.resolve_left List.not_mem_nil
  | cons k ls ih =>
    obtain ⟨hk, hls⟩ := List.forall_mem_cons.1 hls
    rw [lineWrites_cons, deliver_lineWrite_append hk (hlen k)]
    refine ih hls _ ?_
    by_cases hsel : asel p (Config.lineAddr l) = asel p (Config.lineAddr k)
    · right
      rw [writeLines, if_pos ⟨mem_selectedLines.2 ⟨hl, hsel⟩, hc⟩, himg l k hl hk hsel]
    · have hne : l ≠ k := fun hlk => hsel (by rw [hlk])
      refine h.imp (fun hmem => (List.mem_cons.1 hmem).resolve_left hne) fun hcm => ?_
      rw [writeLines, if_neg fun hw => hsel (mem_selectedLines.1 hw.1).2, hcm]

/-- The controller whose every line holds its image. -/
def CtrlMem.ofImage (img : Nat → List Byte) : CtrlMem := fun l c => (img l)[c]?

/-- What the display shows depends on lines 0..8 in its own column. -/
theorem physical_congr {cm cm' : CtrlMem} {x r : Nat} (hr : r < 65) (h : ∀ l < 9, cm l x = cm' l x) :
    physical cm x r = physical cm' x r := by
  rw [physical, physical, h 8 (by omega), h ((r - 1) / 8) (by omega)]

/-- After all nine lines are written the display shows the images. -/
theorem physical_deliver_lineWrites {p : Config.Params} {img : Nat → List Byte} (himg : SameImageWhereAlike p img)
    (hlen : ∀ l, (img l).length = 106) {ls : List Nat} (hls : ∀ l, l ∈ ls ↔ l < 9) (cm : CtrlMem) {x r : Nat}
    (hx : x < 106) (hr : r < 65) :
    physical (deliver p (lineWrites p img ls) cm) x r = physical (.ofImage img) x r :=
  physical_congr hr fun l hl => deliver_lineWrites himg hlen (fun k => (hls k).1) cm hl hx (.inl ((hls l).2 hl))

/-! ### Lines told apart -/

theorem frame_bytes_injective {f g : Config.Frame} (h : f.bytes = g.bytes) : f = g := by
  cases f
  cases g
  cases h
  rfl

/-- Nine different set-address frames tell the nine lines apart (log entry 14). -/
theorem sameImageWhereAlike_of_linesDistinct {p : Config.Params} (hp : p.LinesDistinct) (img : Nat → List Byte) :
    SameImageWhereAlike p img := by
  intro k l hk hl h
  have hbytes : (p.setAddress (Config.lineAddr k)).bytes = (p.setAddress (Config.lineAddr l)).bytes :=
    congrArg Txn.bytes (List.cons.inj h).1
  rw [hp k l hk hl (frame_bytes_injective hbytes)]

/-! ### What is shown -/

theorem physical_zero (cm : CtrlMem) (x : Nat) : physical cm x 0 = (cm 8 x).map fun b => b.getLsbD 7 := rfl

theorem physical_succ (cm : CtrlMem) (x r : Nat) :
    physical cm x (r + 1) = (cm (r / 8) x).map fun b => b.getLsbD (7 - r % 8) := rfl

/-- FLUSH's images show the framebuffer: the remap undoes the controller's shift by one row (41 R162). -/
theorem physical_flushImage (fb : Nat → Byte) {x r : Nat} (hx : x < 106) (hr : r < 65) :
    physical (.ofImage (flushImage fb)) x r = some (pixel fb x r) := by
  cases r with
  | zero =>
    rw [physical_zero, CtrlMem.ofImage, flushImage, if_pos rfl, topLine_getElem? fb x hx, Option.map_some,
      getLsbD_topByte_eq_pixel fb x (by omega), if_pos rfl]
  | succ r =>
    have hline : r / 8 ≠ 8 := by omega
    have hrow : 8 * (r / 8) + 8 - (7 - r % 8) = r + 1 := by omega
    rw [physical_succ, CtrlMem.ofImage, flushImage, if_neg hline, remapLine_getElem? fb _ x hx, Option.map_some,
      getLsbD_remapByte_eq_pixel fb _ x (by omega), hrow]

/-- Settles O45: FLUSH writes all nine lines, and their images show the framebuffer. -/
theorem flushShowsTheFramebuffer : Obligations.FlushShowsTheFramebuffer := by
  intro p fb cm hp x r hx hr
  have hls (l : Nat) : l ∈ 8 :: List.range 8 ↔ l < 9 := by
    rw [List.mem_cons, List.mem_range]
    omega
  rw [flushTxns_eq_lineWrites, physical_deliver_lineWrites (sameImageWhereAlike_of_linesDistinct hp _)
    (flushImage_length fb) hls cm hx hr, physical_flushImage fb hx hr]

/-- Every line of FCLEAR is given the same bytes, so alike lines do not matter. -/
theorem deliver_fclearTxns (p : Config.Params) (cm : CtrlMem) {l c : Nat} (hl : l < 9) (hc : c < 106) :
    deliver p (fclearTxns p) cm l c = some 0x00 := by
  rw [fclearTxns_eq_lineWrites, deliver_lineWrites (fun _ _ _ _ _ => rfl) (fun _ => List.length_replicate)
    (fun _ => List.mem_range.1) cm hl hc (.inl (List.mem_range.2 hl)), List.getElem?_replicate_of_lt hc]

/-- Settles O46: every line byte is zero, and a zero byte shows every row off. -/
theorem fclearBlanksTheDisplay : Obligations.FclearBlanksTheDisplay := by
  refine fun p cm => ⟨fun l c => deliver_fclearTxns p cm, fun x r hx hr => ?_⟩
  have hzero : physical (deliver p (fclearTxns p) cm) x r = physical (fun _ _ => some 0x00) x r :=
    physical_congr hr fun l hl => deliver_fclearTxns p cm hl hx
  rw [hzero]
  cases r with
  | zero => rfl
  | succ r => simp [physical_succ]

/-- What a byte-for-byte copy sends to each line: its own band (41 R152). -/
def naiveImage (fb : Nat → Byte) (l : Nat) : List Byte := (List.range 106).map fun x => fb (x + l * 106)

theorem naiveTxns_eq_lineWrites (p : Config.Params) (fb : Nat → Byte) :
    naiveTxns p fb = lineWrites p (naiveImage fb) (List.range 9) := rfl

theorem naiveImage_length (fb : Nat → Byte) (l : Nat) : (naiveImage fb l).length = 106 := by simp [naiveImage]

theorem naiveImage_getElem? (fb : Nat → Byte) (l : Nat) {x : Nat} (hx : x < 106) :
    (naiveImage fb l)[x]? = some (fb (x + l * 106)) := by simp [naiveImage, hx]

/-- The bands unchanged show the framebuffer one row down, and row 64 at the top (41 R152). -/
theorem physical_naiveImage (fb : Nat → Byte) {x : Nat} (hx : x < 106) (r : Nat) :
    physical (.ofImage (naiveImage fb)) x r = some (pixel fb x (if r = 0 then 64 else r - 1)) := by
  cases r with
  | zero =>
    rw [physical_zero, CtrlMem.ofImage, naiveImage_getElem? fb 8 hx]
    rfl
  | succ r =>
    rw [physical_succ, CtrlMem.ofImage, naiveImage_getElem? fb _ hx]
    rfl

/-- Settles O47: the copy writes all nine lines, and their images show the shifted picture. -/
theorem naiveCopyShowsShiftedRows : Obligations.NaiveCopyShowsShiftedRows := by
  intro p fb cm hp x r hx hr
  rw [naiveTxns_eq_lineWrites, physical_deliver_lineWrites (sameImageWhereAlike_of_linesDistinct hp _)
    (naiveImage_length fb) (fun _ => List.mem_range) cm hx hr, physical_naiveImage fb hx]

end Sys2Proof.Machine
end

section
/-! Faults: what each check records, in which order the checks run, and that a fault writes nothing else (60 R200, R201,
R203). -/

namespace Sys2Proof.Machine

/-! ### The word a fault records is the header the port began with -/

theorem decodeList_illegal_word {w v : Word} {ws rest : List Word} {why : Illegal}
    (h : decodeList w ws = .illegal why v rest) : v = w := by
  simp only [decodeList] at h
  split_ifs at h <;> exact (Decoded.illegal.inj h).2.1.symm

theorem eq_cons_of_decode_illegal {ws rest : List Word} {why : Illegal} {w : Word}
    (h : decode ws = .illegal why w rest) : ∃ ws', ws = w :: ws' := by
  cases ws with
  | nil => cases h
  | cons v ws =>
    suffices hw : w = v from ⟨ws, by rw [hw]⟩
    by_cases hv : opField v = 0x08
    · rw [decode_of_cmdl hv] at h
      exact decodeList_illegal_word h
    · simp only [decode, if_neg hv] at h
      split at h
      · cases h
      · exact (Decoded.illegal.inj h).2.1.symm

/-- A fault found after decoding re-encodes the request, which gives the presented header (log entry 12). -/
theorem eq_cons_of_decode_instr {ws rest : List Word} {i : Instr} (h : decode ws = .instr i rest) :
    ∃ ws', ws = header i :: ws' :=
  ⟨payload i ++ rest, encode_of_decode h⟩

/-! ### The fault record -/

theorem Cause.code_cases (c : Cause) : c.code = 1 ∨ c.code = 2 ∨ c.code = 3 := by
  cases c with
  | illegalRequest => exact .inl rfl
  | notInitialized => exact .inr (.inl rfl)
  | rawIndexRange => exact .inr (.inr rfl)

/-- FAULTED, CAUSE and FAULT_REQ of `t` are those of `s`. -/
def State.SameFaultRecord (s t : State) : Prop :=
  t.faulted = s.faulted ∧ t.cause = s.cause ∧ t.faultReq = s.faultReq

/-- INIT never faults, whatever its draw (41 R148). -/
theorem State.initialized_sameFaultRecord (s : State) : s.SameFaultRecord s.initialized := by
  unfold State.initialized
  split
  · exact ⟨rfl, rfl, rfl⟩
  · split
    · exact ⟨rfl, rfl, rfl⟩
    · exact ⟨rfl, rfl, rfl⟩

/-- Checks (2) and (3) of 60 R203 are the only faults of a decoded request; past both, no request writes the record. -/
theorem Issued.fault_cases {i : Instr} {s t : State} (h : Issued i s t) :
    (i ≠ .init ∧ s.alloc = false ∧ t = s.raiseFault .notInitialized (header i)) ∨
    (s.alloc = true ∧ RawOutOfRange i ∧ t = s.raiseFault .rawIndexRange (header i)) ∨
    s.SameFaultRecord t := by
  cases h with
  | initialized => exact .inr (.inr s.initialized_sameFaultRecord)
  | notInitialized ha hi => exact .inl ⟨hi, ha, rfl⟩
  | outOfRange index ha hi hr => exact .inr (.inl ⟨ha, ⟨index, hi, hr⟩, rfl⟩)
  | wrote | filled | answered | flushed | blanked | commanded => exact .inr (.inr ⟨rfl, rfl, rfl⟩)

/-- A decoded request that leaves an unfaulted block faulted raised one fault with its header, and did nothing else. -/
theorem Issued.eq_raiseFault {i : Instr} {s t : State} (h : Issued i s t) (hs : s.faulted = false)
    (ht : t.faulted = true) : ∃ c, t = s.raiseFault c (header i) := by
  rcases h.fault_cases with ⟨-, -, rfl⟩ | ⟨-, -, rfl⟩ | ⟨hf, -, -⟩
  · exact ⟨_, rfl⟩
  · exact ⟨_, rfl⟩
  · simp [hf, hs] at ht

/-- A step of an accepting block that leaves it faulted is one `raiseFault` on the state with the port shortened. -/
theorem Stepped.eq_raiseFault {s t : State} (h : Stepped s t) (ha : s.Accepting) (ht : t.faulted = true) :
    ∃ w ws rest c, s.port = w :: ws ∧ t = (s.sampled.setPort rest).raiseFault c w := by
  cases h with
  | reset hr => exact absurd hr ha.1
  | emitted _ _ _ hq => simp [ha.txq_eq] at hq
  | stopped | idle => simp [ha.faulted_eq] at ht
  | illegal why w rest _ hd =>
    obtain ⟨ws, hport⟩ := eq_cons_of_decode_illegal hd
    exact ⟨w, ws, rest, _, hport, rfl⟩
  | issued i rest _ _ hd hi =>
    obtain ⟨ws, hport⟩ := eq_cons_of_decode_instr hd
    obtain ⟨c, hc⟩ := hi.eq_raiseFault ha.faulted_eq ht
    exact ⟨header i, ws, rest, c, hport, hc⟩

/-- Settles O19: every fault is one `raiseFault`, which writes the record and nothing else. -/
theorem faultsArePrecise : Obligations.FaultsArePrecise := by
  intro s t ha h ht
  obtain ⟨w, ws, rest, c, hport, rfl⟩ := (step_stepped h).eq_raiseFault ha ht
  exact ⟨w, ws, rest, c.code, hport, c.code_cases, rfl⟩

/-! ### The order of the checks (60 R203) -/

/-- Check (3): past the allocation check, a raw access outside the framebuffer faults. -/
theorem exec_of_rawOutOfRange {i : Instr} (hi : RawOutOfRange i) {s : State} (ha : s.alloc = true) :
    exec i s = .next (s.raiseFault .rawIndexRange (header i)) := by
  obtain ⟨k, rfl | ⟨v, rfl⟩, hk⟩ := hi
  · exact (exec_rawrd_of_alloc k ha).trans (whenInRange_of_le _ hk)
  · exact (exec_rawwr_of_alloc k v ha).trans (whenInRange_of_le _ hk)

/-- A request that passes both checks leaves the fault record as it was. -/
theorem exists_exec_sameFaultRecord {i : Instr} {s : State} (ha : i = .init ∨ s.alloc = true)
    (hr : ¬RawOutOfRange i) : ∃ t, exec i s = .next t ∧ s.SameFaultRecord t := by
  obtain ⟨t, ht⟩ := exists_exec_eq_next i s
  rcases (exec_issued ht).fault_cases with ⟨hi, hna, -⟩ | ⟨-, hi, -⟩ | hsame
  · exact absurd ha (by simp [hi, hna])
  · exact absurd hi hr
  · exact ⟨t, ht, hsame⟩

/-- Settles O21: decoding answers check (1), and a decoded request's meaning answers checks (2) and (3) in turn. -/
theorem checksRunInOrder : Obligations.ChecksRunInOrder := by
  refine ⟨fun s w ws ha hport hill => raisesIllegal_of_illegalRequest hill s ha hport, ?_⟩
  intro s w ws i rest ha hport hd
  obtain rfl : header i = w := by
    obtain ⟨ws', hws⟩ := eq_cons_of_decode_instr hd
    exact (List.cons.inj (hws.symm.trans hport)).1
  rw [stepRunsDecodedRequest s i rest ha hd]
  refine ⟨?notInitialized, ?rawIndexRange, ?noFault⟩
  case notInitialized => exact fun hi hna => ⟨_, exec_of_not_alloc hi hna, rfl⟩
  case rawIndexRange => exact fun hal hr => ⟨_, exec_of_rawOutOfRange hr hal, rfl⟩
  case noFault =>
    intro hal hr
    obtain ⟨t, ht, hf, hc, hq⟩ := exists_exec_sameFaultRecord (s := s.sampled.setPort rest) hal hr
    exact ⟨t, ht, hf.trans ha.faulted_eq, hc, hq⟩

end Sys2Proof.Machine
end

section
/-! Reset (70 R230, R231): the views STATUS and FB of a state that holds the reset values, the reset event's step, and
the step of the reset state itself. -/

namespace Sys2Proof.Machine

/-- STATUS reads 0x00 once every field it shows is clear (70 R231). -/
theorem State.status_of_reset_values {s : State} (ha : s.alloc = false) (hf : s.faulted = false) (hc : s.cause = 0)
    (hq : s.txq = []) : s.status = 0x00 := by
  have hb : s.busy = false := by simp [s.busy_eq, hq]
  rw [State.status, ha, hf, hc, hb]
  rfl

/-- With no byte written since reset, each framebuffer byte is the one that reset left (10 R21). -/
theorem State.fbByte_of_fb_eq_nil {s : State} (h : s.fb = []) (i : Nat) : s.fbByte i = Config.fbDraw s.resets i := by
  simp [State.fbByte, h]

/-- Settles O1: a reset sample is a reset event, which clears every stored field; STATUS and FB are read from those. -/
theorem resetEventLeavesSpecValues : Obligations.ResetEventLeavesSpecValues :=
  fun s h => ⟨s.sampled.resetEvent, step_of_reset h, rfl, rfl, rfl, rfl, rfl, rfl,
    State.status_of_reset_values rfl rfl rfl rfl, State.fbByte_of_fb_eq_nil rfl⟩

theorem accepting_reset : State.reset.Accepting := ⟨by simp [State.NoReset, State.reset], rfl, rfl⟩

/-- Settles O2: the reset state accepts and its port is empty, so its step waits. -/
theorem resetStateWaitsSilently : Obligations.ResetStateWaitsSilently := by
  have waits : step State.reset = .next State.reset := stepWaitsForWholeRequest State.reset accepting_reset rfl
  exact ⟨rfl, rfl, rfl, rfl, rfl, rfl, State.status_of_reset_values rfl rfl rfl rfl, State.fbByte_of_fb_eq_nil rfl, waits⟩

end Sys2Proof.Machine
end
